-- ==== Sys2Proof/Word.lean ====
section
/-! DEFINITION. The sizes of the machine's values (`00_scope.md` R4): bytes, 16-bit words, 12-bit address immediates, and
the index of one of the sixteen V registers. Every value is unsigned (`00_scope.md` section 5). -/

namespace Sys2Proof

/-- An 8-bit value: a V register, a timer, a byte of memory (VW and TW of R4). -/
abbrev Byte := BitVec 8

/-- A 16-bit value: I, pc, a stack entry, an instruction word (IW and PCW of R4). -/
abbrev Word := BitVec 16

/-- The 12-bit address immediate NNN (`30_encoding.md` R92). -/
abbrev Imm12 := BitVec 12

/-- The index of a V register, 0 to 15 (`10_state.md` R21): the X and Y fields of an instruction word. -/
abbrev Reg := Fin 16

end Sys2Proof
end

