-- ==== Sys2Proof/Config.lean ====
section
/-! DEFINITION. The named constants of `00_scope.md` R4 that the machine's definitions use, and the open parameters of R5
that are free values: constants with no body, of which nothing can be proved. (FONTSET is an
argument that the state carries, see Machine/Fontset.lean; DECODE_LOOSE stands in Decode.lean.) -/

namespace Sys2Proof.Config

/-- MEM_SIZE: bytes of memory, addresses 0 to 4095. -/
@[simp] abbrev memSize : Nat := 4096

/-- ROM_BASE: address of the first ROM byte, and the reset value of pc. -/
@[simp] abbrev romBase : Nat := 0x200

/-- ROM_MAX: the largest ROM in bytes (`90_conflicts.md` C1). -/
@[simp] abbrev romMax : Nat := 3232

/-- FONT_BYTES: the fontset fills addresses 0 to 79. -/
@[simp] abbrev fontBytes : Nat := 80

/-- GLYPH_BYTES: bytes per glyph, the multiplier of FX29. -/
@[simp] abbrev glyphBytes : Nat := 5

/-- STACK_DEPTH: entries of the call stack. -/
@[simp] abbrev stackDepth : Nat := 16

/-- RND (R5, `42_alu.md` R151): the byte that the `n`-th draw of a run returns. A free value: the spec gives no
generator, no seed and no law (log 3). -/
opaque freeByte : Nat → Byte

/-- KEY_PICK (R5, `45_keypad_timers.md` R182): which of several pressed keys FX0A reports, for a key array and the number
of draws made before it. A free value: only its remainder by the number of pressed keys is used, so every choice among
the pressed keys is covered and no other (log 4). -/
opaque keyPick : Vector Bool 16 → Nat → Nat

end Sys2Proof.Config
end

