-- ==== Sys2Proof/Syntax.lean ====
section
/-! DEFINITION. The instructions: one constructor per row of `spec/opcode_table.json` (`30_encoding.md` R95, R100), in
the table's order, carrying the fields X, Y, N, NN or NNN of its format (R93). -/

namespace Sys2Proof

/-- One constructor per row of the opcode table. `x` and `y` are register indices, `n` the sprite height, `nn` the 8-bit
and `nnn` the 12-bit immediate. -/
inductive Instr where
  /-- 00E0, clear the framebuffer. -/
  | cls
  /-- 00EE, return from subroutine. -/
  | ret
  /-- 1NNN, jump. -/
  | jpNnn (nnn : Imm12)
  /-- 2NNN, call subroutine. -/
  | callNnn (nnn : Imm12)
  /-- 3XNN, skip if register equals immediate. -/
  | seVxNn (x : Reg) (nn : Byte)
  /-- 4XNN, skip if register differs from immediate. -/
  | sneVxNn (x : Reg) (nn : Byte)
  /-- 5XY0, skip if registers are equal. -/
  | seVxVy (x y : Reg)
  /-- 6XNN, load immediate. -/
  | ldVxNn (x : Reg) (nn : Byte)
  /-- 7XNN, add immediate. -/
  | addVxNn (x : Reg) (nn : Byte)
  /-- 8XY0, copy register. -/
  | ldVxVy (x y : Reg)
  /-- 8XY1, bitwise OR. -/
  | orVxVy (x y : Reg)
  /-- 8XY2, bitwise AND. -/
  | andVxVy (x y : Reg)
  /-- 8XY3, bitwise exclusive OR. -/
  | xorVxVy (x y : Reg)
  /-- 8XY4, add with carry flag. -/
  | addVxVy (x y : Reg)
  /-- 8XY5, subtract with not-borrow flag. -/
  | subVxVy (x y : Reg)
  /-- 8XY6, shift right by one; Y is encoded and ignored. -/
  | shrVx (x y : Reg)
  /-- 8XY7, reverse subtract with not-borrow flag. -/
  | subnVxVy (x y : Reg)
  /-- 8XYE, shift left by one; Y is encoded and ignored. -/
  | shlVx (x y : Reg)
  /-- 9XY0, skip if registers differ. -/
  | sneVxVy (x y : Reg)
  /-- ANNN, load index. -/
  | ldINnn (nnn : Imm12)
  /-- BNNN, jump with offset V[0]. -/
  | jpV0Nnn (nnn : Imm12)
  /-- CXNN, masked random byte. -/
  | rndVxNn (x : Reg) (nn : Byte)
  /-- DXYN, draw a sprite of N rows. -/
  | drwVxVyN (x y : Reg) (n : Fin 16)
  /-- EX9E, skip if the key named by V[X] is pressed. -/
  | skpVx (x : Reg)
  /-- EXA1, skip if the key named by V[X] is not pressed. -/
  | sknpVx (x : Reg)
  /-- FX07, read the delay timer. -/
  | ldVxDt (x : Reg)
  /-- FX0A, wait for a key. -/
  | ldVxK (x : Reg)
  /-- FX15, write the delay timer. -/
  | ldDtVx (x : Reg)
  /-- FX18, write the sound timer. -/
  | ldStVx (x : Reg)
  /-- FX1E, add register to index. -/
  | addIVx (x : Reg)
  /-- FX29, glyph address. -/
  | ldFVx (x : Reg)
  /-- FX33, store the three decimal digits of a register. -/
  | ldBVx (x : Reg)
  /-- FX55, store registers V[0] to V[X]. -/
  | ldMemVx (x : Reg)
  /-- FX65, load registers V[0] to V[X]. -/
  | ldVxMem (x : Reg)
  deriving DecidableEq, Repr

end Sys2Proof
end

