-- ==== Sys2Proof/WellFormed.lean ====
section
/-! DEFINITION. Well-formed instructions. The widths of the fields (`30_encoding.md` R92, R94) are in the types of
`Instr`'s operands, so a register index above 15 or an immediate that does not fit its field cannot be written, and every
row admits every value of its fields. What is left to check is the assembler's spelling of the two shifts (R101). -/

namespace Sys2Proof

/-- Every term of `Instr` has an encoding (R95): field widths are held by the operand types, and no row of the table
excludes a value of a field. One line per constructor, so that a new one must say what it needs. -/
def Instr.wellFormed : Instr → Bool
  | .cls | .ret => true
  | .jpNnn _ | .callNnn _ | .ldINnn _ | .jpV0Nnn _ => true
  | .seVxNn _ _ | .sneVxNn _ _ | .ldVxNn _ _ | .addVxNn _ _ | .rndVxNn _ _ => true
  | .seVxVy _ _ | .sneVxVy _ _ | .ldVxVy _ _ | .orVxVy _ _ | .andVxVy _ _ | .xorVxVy _ _ => true
  | .addVxVy _ _ | .subVxVy _ _ | .subnVxVy _ _ | .shrVx _ _ | .shlVx _ _ => true
  | .drwVxVyN _ _ _ => true
  | .skpVx _ | .sknpVx _ | .ldVxDt _ | .ldVxK _ | .ldDtVx _ | .ldStVx _ => true
  | .addIVx _ | .ldFVx _ | .ldBVx _ | .ldMemVx _ | .ldVxMem _ => true

/-- The instructions that the assembler form can spell (R101): in 8XY6 and 8XYE "the assembler form has one register; the
Y field is encoded as 0". A word with another Y is an instruction all the same, given in hexadecimal. -/
def Instr.assemblerForm : Instr → Bool
  | .shrVx _ y => y == 0
  | .shlVx _ y => y == 0
  | i => i.wellFormed

end Sys2Proof
end

