-- ==== Sys2Proof/Decode.lean ====
section
/-! DEFINITION. The opcode map of `30_encoding.md` R95 as a list of rows with a mask and a match, the decoder that walks
it, and the encoder written from the formats of R93. Decoding is total: a word of no row is rejected by name (R96). -/

namespace Sys2Proof

/-- DECODE_LOOSE (`00_scope.md` R5, D1): whether the decoder ignores the digits that the document's dispatcher does not
examine (R98). The spec's choice is the exact match (log 5). -/
def decodeLoose : Bool := false

/-! ## Fields (R92) -/

/-- X = op[11:8]. -/
def fieldX (op : Word) : Reg := (op.extractLsb' 8 4).toFin

/-- Y = op[7:4]. -/
def fieldY (op : Word) : Reg := (op.extractLsb' 4 4).toFin

/-- N = op[3:0]. -/
def fieldN (op : Word) : Fin 16 := (op.extractLsb' 0 4).toFin

/-- NN = op[7:0]. -/
def fieldNN (op : Word) : Byte := op.extractLsb' 0 8

/-- NNN = op[11:0]. -/
def fieldNNN (op : Word) : Imm12 := op.extractLsb' 0 12

/-! ## The opcode map (R95, and the looser pairs of R98) -/

/-- One row of the opcode map: its pattern, the pair match and mask of R95, the pair of R98 where it differs, and the
instruction built from the fields of a word that the row selects. -/
structure OpcodeRow where
  pattern : String
  value : Word
  mask : Word
  looseValue : Word := value
  looseMask : Word := mask
  build : Word → Instr

/-- `op` selects the row: `(op AND mask) == match` (R95). -/
def OpcodeRow.hits (r : OpcodeRow) (loose : Bool) (op : Word) : Bool :=
  if loose then op &&& r.looseMask == r.looseValue else op &&& r.mask == r.value

/-- The rows of the classes 0x0 to 0x7. -/
def opcodeRowsLow : List OpcodeRow := [
  ⟨"00E0", 0x00E0, 0xFFFF, 0x0000, 0xF00F, fun _ => .cls⟩,
  ⟨"00EE", 0x00EE, 0xFFFF, 0x000E, 0xF00F, fun _ => .ret⟩,
  ⟨"1NNN", 0x1000, 0xF000, 0x1000, 0xF000, fun op => .jpNnn (fieldNNN op)⟩,
  ⟨"2NNN", 0x2000, 0xF000, 0x2000, 0xF000, fun op => .callNnn (fieldNNN op)⟩,
  ⟨"3XNN", 0x3000, 0xF000, 0x3000, 0xF000, fun op => .seVxNn (fieldX op) (fieldNN op)⟩,
  ⟨"4XNN", 0x4000, 0xF000, 0x4000, 0xF000, fun op => .sneVxNn (fieldX op) (fieldNN op)⟩,
  ⟨"5XY0", 0x5000, 0xF00F, 0x5000, 0xF000, fun op => .seVxVy (fieldX op) (fieldY op)⟩,
  ⟨"6XNN", 0x6000, 0xF000, 0x6000, 0xF000, fun op => .ldVxNn (fieldX op) (fieldNN op)⟩,
  ⟨"7XNN", 0x7000, 0xF000, 0x7000, 0xF000, fun op => .addVxNn (fieldX op) (fieldNN op)⟩]

/-- The rows of the class 0x8. -/
def opcodeRowsAlu : List OpcodeRow := [
  ⟨"8XY0", 0x8000, 0xF00F, 0x8000, 0xF00F, fun op => .ldVxVy (fieldX op) (fieldY op)⟩,
  ⟨"8XY1", 0x8001, 0xF00F, 0x8001, 0xF00F, fun op => .orVxVy (fieldX op) (fieldY op)⟩,
  ⟨"8XY2", 0x8002, 0xF00F, 0x8002, 0xF00F, fun op => .andVxVy (fieldX op) (fieldY op)⟩,
  ⟨"8XY3", 0x8003, 0xF00F, 0x8003, 0xF00F, fun op => .xorVxVy (fieldX op) (fieldY op)⟩,
  ⟨"8XY4", 0x8004, 0xF00F, 0x8004, 0xF00F, fun op => .addVxVy (fieldX op) (fieldY op)⟩,
  ⟨"8XY5", 0x8005, 0xF00F, 0x8005, 0xF00F, fun op => .subVxVy (fieldX op) (fieldY op)⟩,
  ⟨"8XY6", 0x8006, 0xF00F, 0x8006, 0xF00F, fun op => .shrVx (fieldX op) (fieldY op)⟩,
  ⟨"8XY7", 0x8007, 0xF00F, 0x8007, 0xF00F, fun op => .subnVxVy (fieldX op) (fieldY op)⟩,
  ⟨"8XYE", 0x800E, 0xF00F, 0x800E, 0xF00F, fun op => .shlVx (fieldX op) (fieldY op)⟩]

/-- The rows of the classes 0x9 to 0xE. -/
def opcodeRowsMid : List OpcodeRow := [
  ⟨"9XY0", 0x9000, 0xF00F, 0x9000, 0xF000, fun op => .sneVxVy (fieldX op) (fieldY op)⟩,
  ⟨"ANNN", 0xA000, 0xF000, 0xA000, 0xF000, fun op => .ldINnn (fieldNNN op)⟩,
  ⟨"BNNN", 0xB000, 0xF000, 0xB000, 0xF000, fun op => .jpV0Nnn (fieldNNN op)⟩,
  ⟨"CXNN", 0xC000, 0xF000, 0xC000, 0xF000, fun op => .rndVxNn (fieldX op) (fieldNN op)⟩,
  ⟨"DXYN", 0xD000, 0xF000, 0xD000, 0xF000, fun op => .drwVxVyN (fieldX op) (fieldY op) (fieldN op)⟩,
  ⟨"EX9E", 0xE09E, 0xF0FF, 0xE00E, 0xF00F, fun op => .skpVx (fieldX op)⟩,
  ⟨"EXA1", 0xE0A1, 0xF0FF, 0xE001, 0xF00F, fun op => .sknpVx (fieldX op)⟩]

/-- The rows of the class 0xF. -/
def opcodeRowsHigh : List OpcodeRow := [
  ⟨"FX07", 0xF007, 0xF0FF, 0xF007, 0xF00F, fun op => .ldVxDt (fieldX op)⟩,
  ⟨"FX0A", 0xF00A, 0xF0FF, 0xF00A, 0xF00F, fun op => .ldVxK (fieldX op)⟩,
  ⟨"FX15", 0xF015, 0xF0FF, 0xF015, 0xF0FF, fun op => .ldDtVx (fieldX op)⟩,
  ⟨"FX18", 0xF018, 0xF0FF, 0xF008, 0xF00F, fun op => .ldStVx (fieldX op)⟩,
  ⟨"FX1E", 0xF01E, 0xF0FF, 0xF00E, 0xF00F, fun op => .addIVx (fieldX op)⟩,
  ⟨"FX29", 0xF029, 0xF0FF, 0xF009, 0xF00F, fun op => .ldFVx (fieldX op)⟩,
  ⟨"FX33", 0xF033, 0xF0FF, 0xF003, 0xF00F, fun op => .ldBVx (fieldX op)⟩,
  ⟨"FX55", 0xF055, 0xF0FF, 0xF055, 0xF0FF, fun op => .ldMemVx (fieldX op)⟩,
  ⟨"FX65", 0xF065, 0xF0FF, 0xF065, 0xF0FF, fun op => .ldVxMem (fieldX op)⟩]

/-- The 34 rows of R95. -/
def opcodeRows : List OpcodeRow := opcodeRowsLow ++ (opcodeRowsAlu ++ (opcodeRowsMid ++ opcodeRowsHigh))

/-! ## Decoding -/

/-- Why bytes are no instruction. -/
inductive Reject where
  /-- The word matches no row (R96). -/
  | unknownOpcode (op : Word)
  /-- Fewer than two bytes were given (every instruction is two bytes, R90). -/
  | truncated (given : Nat)
  deriving DecidableEq, Repr

/-- Decoding under either value of DECODE_LOOSE. -/
def decodeWith (loose : Bool) (op : Word) : Except Reject Instr :=
  match opcodeRows.find? fun r => r.hits loose op with
  | some r => .ok (r.build op)
  | none => .error (.unknownOpcode op)

/-- The decoder of the Step event (R95, R103). -/
def decode (op : Word) : Except Reject Instr :=
  decodeWith decodeLoose op

/-- `op <- hi * 256 + lo`: the byte at the lower address is the high byte (R91, `20_memory.md` R63). -/
def wordOfBytes (hi lo : Byte) : Word := hi ++ lo

/-- The two bytes of a word in the order of their addresses (R102). -/
def bytesOfWord (op : Word) : List Byte := [op.extractLsb' 8 8, op.extractLsb' 0 8]

/-- Decode the first instruction of a list of bytes, and give the bytes after it. -/
def decodeBytes : List Byte → Except Reject (Instr × List Byte)
  | hi :: lo :: rest => (decode (wordOfBytes hi lo)).map fun i => (i, rest)
  | short => .error (.truncated short.length)

/-! ## Encoding (R93) -/

/-- Format NNN: T, NNN. -/
def formatNNN (t : BitVec 4) (nnn : Imm12) : Word := t ++ nnn

/-- Format XNN: T, X, NN. -/
def formatXNN (t : BitVec 4) (x : Reg) (nn : Byte) : Word := (t ++ (BitVec.ofFin x : BitVec 4)) ++ nn

/-- Formats XY and XYN: T, X, Y and the bottom nibble (a secondary opcode, or N). -/
def formatXYN (t : BitVec 4) (x y n : Fin 16) : Word :=
  (t ++ (BitVec.ofFin x : BitVec 4)) ++ ((BitVec.ofFin y : BitVec 4) ++ (BitVec.ofFin n : BitVec 4))

/-- The instruction word of an instruction, from the encodings of the `4N` files. -/
def encode : Instr → Word
  | .cls => 0x00E0
  | .ret => 0x00EE
  | .jpNnn nnn => formatNNN 0x1 nnn
  | .callNnn nnn => formatNNN 0x2 nnn
  | .seVxNn x nn => formatXNN 0x3 x nn
  | .sneVxNn x nn => formatXNN 0x4 x nn
  | .seVxVy x y => formatXYN 0x5 x y 0x0
  | .ldVxNn x nn => formatXNN 0x6 x nn
  | .addVxNn x nn => formatXNN 0x7 x nn
  | .ldVxVy x y => formatXYN 0x8 x y 0x0
  | .orVxVy x y => formatXYN 0x8 x y 0x1
  | .andVxVy x y => formatXYN 0x8 x y 0x2
  | .xorVxVy x y => formatXYN 0x8 x y 0x3
  | .addVxVy x y => formatXYN 0x8 x y 0x4
  | .subVxVy x y => formatXYN 0x8 x y 0x5
  | .shrVx x y => formatXYN 0x8 x y 0x6
  | .subnVxVy x y => formatXYN 0x8 x y 0x7
  | .shlVx x y => formatXYN 0x8 x y 0xE
  | .sneVxVy x y => formatXYN 0x9 x y 0x0
  | .ldINnn nnn => formatNNN 0xA nnn
  | .jpV0Nnn nnn => formatNNN 0xB nnn
  | .rndVxNn x nn => formatXNN 0xC x nn
  | .drwVxVyN x y n => formatXYN 0xD x y n
  | .skpVx x => formatXNN 0xE x 0x9E
  | .sknpVx x => formatXNN 0xE x 0xA1
  | .ldVxDt x => formatXNN 0xF x 0x07
  | .ldVxK x => formatXNN 0xF x 0x0A
  | .ldDtVx x => formatXNN 0xF x 0x15
  | .ldStVx x => formatXNN 0xF x 0x18
  | .addIVx x => formatXNN 0xF x 0x1E
  | .ldFVx x => formatXNN 0xF x 0x29
  | .ldBVx x => formatXNN 0xF x 0x33
  | .ldMemVx x => formatXNN 0xF x 0x55
  | .ldVxMem x => formatXNN 0xF x 0x65

/-- The two bytes of an instruction, as memory holds them. -/
def encodeBytes (i : Instr) : List Byte := bytesOfWord (encode i)

/-- The bytes, as the hardware stores them, of an instruction whose bits are `w`, of which the table gives `nbits`; the
bits above `nbits` are 0. -/
def tableWordBytes (nbits w : Nat) : List Byte := bytesOfWord (BitVec.ofNat 16 (w % 2 ^ nbits))

/-- What the decoder reads from an instruction whose bits are `w`, numbered as `spec/opcode_table.json` numbers them. -/
def decodeTableWord (nbits w : Nat) : Option Instr :=
  match decodeBytes (tableWordBytes nbits w) with
  | .ok (i, _) => some i
  | .error _ => none

end Sys2Proof
end

