-- ==== Sys2Proof/Machine/Flags.lean ====
section
/-! DEFINITION. The flag register and every flag value that `10_state.md` R22 lists but the collision flag of DXYN, which
stands with the blit in Machine/Display.lean. Comparisons are of mathematical integers (`42_alu.md` R152). -/

namespace Sys2Proof.Machine

/-- V[15], the flag register (R22). -/
abbrev flagReg : Reg := 15

/-- A flag value: exactly 0 or 1 (R22). -/
def flagByte (c : Bool) : Byte := if c then 1 else 0

/-- 8XY4: 1 if V[X] + V[Y] > 255, else 0 (R146). -/
def carryFlag (a b : Byte) : Byte := flagByte (decide (a.toNat + b.toNat > 255))

/-- 8XY5 and 8XY7: 0 if the minuend is smaller than the subtrahend, else 1 (R147, R149). -/
def notBorrowFlag (minuend subtrahend : Byte) : Byte := flagByte (!decide (minuend.toNat < subtrahend.toNat))

/-- 8XY6: bit 0 before the shift (R148). -/
def lowBitFlag (a : Byte) : Byte := flagByte (a.getLsbD 0)

/-- 8XYE: bit 7 before the shift (R150). -/
def highBitFlag (a : Byte) : Byte := flagByte (a.getLsbD 7)

/-- FX1E: 1 if I + V[X] > 0xFFF, else 0, the sum not wrapped (R161). -/
def indexOverflowFlag (index : Word) (a : Byte) : Byte := flagByte (decide (index.toNat + a.toNat > 0xFFF))

end Sys2Proof.Machine
end

