-- ==== Sys2Proof/Machine/Fontset.lean ====
section
/-! DEFINITION. FONTSET, the open parameter of `00_scope.md` R5 (D20): its type, what memory holds after Boot for each
value of it, and the default value that the spec names. The machine holds its FONTSET in the state (`State.fontset`), so
every operation and every statement about a state takes it as an argument. -/

namespace Sys2Proof.Machine

/-- A value of FONTSET: the bytes at addresses 0 to 79 after Boot. -/
abbrev Fontset := Vector Byte 80

/-- The byte at an address after Boot, and what an unlisted address of memory reads as: FONTSET in [0, 80) and 0 elsewhere
(`10_state.md` R34, `20_memory.md` R62). -/
def resetByte (font : Fontset) (a : Nat) : Byte := if h : a < Config.fontBytes then font[a]'h else 0

/-- The glyphs 0 to 7 of the default FONTSET. -/
def fontLow : List Byte := [
  0xF0, 0x90, 0x90, 0x90, 0xF0,  0x20, 0x60, 0x20, 0x20, 0x70,
  0xF0, 0x10, 0xF0, 0x80, 0xF0,  0xF0, 0x10, 0xF0, 0x10, 0xF0,
  0x90, 0x90, 0xF0, 0x10, 0x10,  0xF0, 0x80, 0xF0, 0x10, 0xF0,
  0xF0, 0x80, 0xF0, 0x90, 0xF0,  0xF0, 0x10, 0x20, 0x40, 0x40]

/-- The glyphs 8 to F of the default FONTSET. -/
def fontHigh : List Byte := [
  0xF0, 0x90, 0xF0, 0x90, 0xF0,  0xF0, 0x90, 0xF0, 0x10, 0xF0,
  0xF0, 0x90, 0xF0, 0x90, 0x90,  0xE0, 0x90, 0xE0, 0x90, 0xE0,
  0xF0, 0x80, 0x80, 0x80, 0xF0,  0xE0, 0x90, 0x90, 0x90, 0xE0,
  0xF0, 0x80, 0xF0, 0x80, 0xF0,  0xF0, 0x80, 0xF0, 0x80, 0x80]

/-- The default value of FONTSET: the table of `70_reset_and_hazards.md` R240, which the spec marks as from general
knowledge (PRESUMED, log 2). Only `State.reset` uses it. -/
def defaultFontset : Fontset := ⟨(fontLow ++ fontHigh).toArray, rfl⟩

end Sys2Proof.Machine
end

