-- ==== Sys2Proof/Machine/State.lean ====
section
/-! DEFINITION. The state of the machine (`10_state.md` R20) as plain data, the causes a fault can have
(`60_exceptions.md` R201), the reasons an event can stop, and the state after Boot (R34). -/

namespace Sys2Proof.Machine

/-- The kind of a memory access, part of the information of a MemoryOutOfBounds fault (R205). -/
inductive Access where
  | fetch
  | read
  | write
  deriving DecidableEq, Repr

/-- The causes of a FatalExecutionError with the information each carries (R201). Taking one is `raise` in
Machine/Ops.lean: the step answers a NEXT state whose `run` is `faulted` with the cause (R210; log 1). -/
inductive Cause where
  /-- The fetched word matches no row of the opcode table (R202): the word. -/
  | unknownOpcode (op : Word)
  /-- 2NNN with SP = 16 (R203): the address of the 2NNN. -/
  | stackOverflow (pc : Word)
  /-- 00EE with SP = 0 (R204): the address of the 00EE. -/
  | stackUnderflow (pc : Word)
  /-- An address above 4095 is needed (R205): the lowest offending address and the kind of access. -/
  | memoryOutOfBounds (addr : Nat) (kind : Access)
  /-- EX9E or EXA1 with V[X] > 15 (R206): the value of V[X]. -/
  | keyIndexOutOfRange (key : Byte)
  deriving DecidableEq, Repr

/-- Run (R30): Running, or Faulted(cause, info). -/
inductive RunStatus where
  | running
  | faulted (cause : Cause)
  deriving DecidableEq, Repr

/-- The errors an event reports WITHOUT a next state. The fatal errors of a Step are not among them: the spec gives
those an effect on Run, so they are next states (log 1). -/
inductive Fault where
  /-- ConfigurationError.RomTooLarge (R207): raised by the LoadROM event alone, never by a Step, when more than 3232
  bytes are offered; no state changes and the host may offer another ROM. Safe (log 8). -/
  | romTooLarge (length : Nat)
  deriving DecidableEq, Repr

/-- The reasons for having no meaning. -/
inductive Refusal where
  /-- An instruction of the table whose arm of `exec` has no meaning yet. Raised by no arm: all 34 instructions have
  their meaning. Safe. -/
  | notModelled (mnemonic : String)
  deriving DecidableEq, Repr

/-- Memory as the list of the bytes that differ from their contents after Boot: addresses strictly rising, below 4096,
no entry equal to what an unlisted address reads as (`Memory.wf`; log 13). -/
abbrev Memory := List Host.Cell

/-- The framebuffer: 32 rows, row 0 at the top; bit `x` of a row is the pixel of column `x` (R27; log 12). -/
abbrev Framebuffer := Vector (BitVec 64) 32

/-- The complete state of the machine (R20), with the parameter FONTSET (log 2)
and `draws`, the model's own count of the free values drawn (log 3). -/
structure State where
  /-- V[0] to V[15] (R21). -/
  v : Vector Byte 16
  /-- I (R23). -/
  index : Word
  /-- pc (R24). -/
  pc : Word
  /-- Stack[0] to Stack[15] (R25). -/
  stack : Vector Word 16
  /-- SP, the number of live entries, 0 to 16 (R25). -/
  sp : Fin 17
  /-- DT (R26). -/
  dt : Byte
  /-- ST (R26). -/
  st : Byte
  /-- FB (R27). -/
  fb : Framebuffer
  /-- RedrawFlag (R28). -/
  redraw : Bool
  /-- Keys[0] to Keys[15], true while pressed (R29). -/
  keys : Vector Bool 16
  /-- Mem (R31). -/
  mem : Memory
  /-- Run (R30). -/
  run : RunStatus
  /-- FONTSET, the open parameter of `00_scope.md` R5, held as data so that every value of it is covered: the bytes that
  unlisted addresses 0 to 79 of `mem` read as, and that Boot puts there. No event changes it (log 2). -/
  fontset : Fontset
  /-- The model's own field: how many free values have been drawn (log 3). -/
  draws : Nat
  deriving DecidableEq, Repr

/-- The state after Boot of a machine with the given FONTSET (R34, `70_reset_and_hazards.md` R240). Memory lists nothing:
the fontset and the zeroes after it are what unlisted addresses read as. `draws` is 0 by DESIGN CHOICE (log 3). -/
def State.resetWith (font : Fontset) : State where
  v := Vector.replicate 16 0
  index := 0
  pc := BitVec.ofNat 16 Config.romBase
  stack := Vector.replicate 16 0
  sp := 0
  dt := 0
  st := 0
  fb := Vector.replicate 32 0
  redraw := false
  keys := Vector.replicate 16 false
  mem := []
  run := .running
  fontset := font
  draws := 0

/-- The state after Boot with the default FONTSET that R5 names (log 2). -/
def State.reset : State := State.resetWith defaultFontset

/-- What an event or an instruction answers. -/
abbrev Outcome := Host.Outcome State Fault Refusal

end Sys2Proof.Machine
end

