-- ==== Sys2Proof/Machine/Memory.lean ====
section
/-! DEFINITION. Memory (`20_memory.md` R60 to R66): what a byte reads as, the one write, spans of bytes in ascending
order, and the canonical form. The operations here take any address; the range check of R61 is `spanFits`, made by
the callers before they change anything (`43_index_memory.md` R166). -/

namespace Sys2Proof.Machine

/-- The byte at an address, in a machine with that FONTSET. -/
def Memory.read (font : Fontset) : Memory → Nat → Byte
  | [], a => resetByte font a
  | (k, b) :: rest, a => if a = k then b else Memory.read font rest a

/-- Put a byte in front of the cells of higher addresses, unless it is what the address reads as anyway. -/
def Memory.cons (font : Fontset) (a : Nat) (b : Byte) (rest : Memory) : Memory :=
  if b = resetByte font a then rest else (a, b) :: rest

/-- Store a byte, keeping the canonical form. -/
def Memory.write (font : Fontset) : Memory → Nat → Byte → Memory
  | [], a, b => Memory.cons font a b []
  | (k, c) :: rest, a, b =>
    if a < k then Memory.cons font a b ((k, c) :: rest)
    else if a = k then Memory.cons font a b rest
    else (k, c) :: Memory.write font rest a b

/-- Store bytes at ascending addresses (R65). -/
def Memory.writeBytes (m : Memory) (font : Fontset) (a : Nat) : List Byte → Memory
  | [] => m
  | b :: bs => Memory.writeBytes (m.write font a b) font (a + 1) bs

/-- Read `n` bytes at ascending addresses (R65). -/
def Memory.readBytes (m : Memory) (font : Fontset) (a : Nat) : Nat → List Byte
  | 0 => []
  | n + 1 => m.read font a :: Memory.readBytes m font (a + 1) n

/-- All addresses of the list are at least `lo`, strictly rising, below 4096, and no entry is what an unlisted address
reads as. -/
def Memory.wfFrom (font : Fontset) (lo : Nat) : Memory → Bool
  | [] => true
  | (k, b) :: rest =>
    decide (lo ≤ k) && decide (k < Config.memSize) && decide (b ≠ resetByte font k) && Memory.wfFrom font (k + 1) rest

/-- The canonical form of memory. -/
def Memory.wf (m : Memory) (font : Fontset) : Bool := Memory.wfFrom font 0 m

/-- The `n` bytes from address `base` on all lie in 0 to 4095 (R61; for no bytes there is nothing to check). The sum is
of mathematical integers: an access never wraps. -/
def spanFits (base n : Nat) : Bool := n == 0 || decide (base + n ≤ Config.memSize)

/-- The lowest address of a span that is above 4095, for a span that does not fit: `base` itself when it is above 4095,
else 4096 (R166, R205). -/
def lowestOutside (base : Nat) : Nat := max base Config.memSize

end Sys2Proof.Machine
end

