-- ==== Sys2Proof/Machine/Ops.lean ====
section
/-! DEFINITION. The named operations over the state: registers, pc, call stack, timers, framebuffer, taking a fault, and
the fetch. Meanings are built from these. -/

namespace Sys2Proof.Machine

/-! ## Registers -/

/-- V[x]. -/
def State.reg (s : State) (x : Reg) : Byte := s.v[x]

/-- V[x] <- b (R21: no register is hard-wired). -/
def State.setReg (s : State) (x : Reg) (b : Byte) : State := { s with v := s.v.set x.val b x.isLt }

/-- I <- w. -/
def State.setIndex (s : State) (w : Word) : State := { s with index := w }

/-- DT <- b. -/
def State.setDt (s : State) (b : Byte) : State := { s with dt := b }

/-- ST <- b. -/
def State.setSt (s : State) (b : Byte) : State := { s with st := b }

/-- All sixteen V registers at once. -/
def State.setRegs (s : State) (v : Vector Byte 16) : State := { s with v := v }

/-- Flag first, then the result, read after the flag write (`42_alu.md` R153, D2): V[15] <- flag, then V[x] <- result of
the registers as the flag write left them. -/
def State.flagThen (s : State) (flag : Byte) (x : Reg) (result : State → Byte) : State :=
  (s.setReg flagReg flag).setReg x (result (s.setReg flagReg flag))

/-! ## The program counter (R24, `30_encoding.md` R99) -/

/-- pc <- target. -/
def State.setPc (s : State) (target : Word) : State := { s with pc := target }

/-- pc <- (pc + 2) mod 65536. -/
def State.advance (s : State) : State := s.setPc (s.pc + 2)

/-- pc <- (pc + 4) mod 65536 when the condition holds, else (pc + 2) mod 65536 (`41_skip.md` R134). -/
def State.skipIf (s : State) (c : Bool) : State := s.setPc (if c then s.pc + 4 else s.pc + 2)

/-! ## Memory -/

/-- The byte at an address. -/
def State.byte (s : State) (a : Nat) : Byte := s.mem.read s.fontset a

/-- Store bytes at ascending addresses. -/
def State.storeBytes (s : State) (a : Nat) (bs : List Byte) : State := { s with mem := s.mem.writeBytes s.fontset a bs }

/-! ## Display -/

/-- FB[y][x]; outside the raster there is no pixel, read as unset (`44_display.md` R172). -/
def State.pixel (s : State) (x y : Nat) : Bool := if h : y < 32 then (s.fb[y]'h).getLsbD x else false

/-- FB <- fb, and RedrawFlag <- 1, as 00E0 and DXYN do every time they complete (R28). -/
def State.redrawWith (s : State) (fb : Framebuffer) : State := { s with fb := fb, redraw := true }

/-! ## Free values (log 3) -/

/-- Count one more free value drawn. -/
def State.drawn (s : State) : State := { s with draws := s.draws + 1 }

/-! ## Faults (`60_exceptions.md` R210) -/

/-- Run <- r. -/
def State.setRun (s : State) (r : RunStatus) : State := { s with run := r }

/-- Taking a fault: exactly one state change, Run <- Faulted(cause, info). Nothing is saved, no mode changes, pc stays
(R210). It is a next state (log 1); there is no return from a fault but Boot (R211). -/
def raise (c : Cause) (s : State) : Outcome := .next (s.setRun (.faulted c))

/-- Finish an instruction that may raise: its next state, or the fault taken in the state BEFORE it, so that nothing it
would have done takes effect (R210, D12). -/
def settle (s : State) : Except Cause State → Outcome
  | .ok t => .next t
  | .error c => raise c s

/-- The one check of a multi-byte transfer, before anything changes (`43_index_memory.md` R166): when the span fits the
instruction goes on to `t`, else MemoryOutOfBounds with the lowest offending address. -/
def guardSpan (base n : Nat) (kind : Access) (s t : State) : Outcome :=
  if spanFits base n then .next t else raise (.memoryOutOfBounds (lowestOutside base) kind) s

/-- The numeric code of a cause (R201, D13). -/
def causeCode : Cause → Nat
  | .unknownOpcode _ => 1
  | .stackOverflow _ => 2
  | .stackUnderflow _ => 3
  | .memoryOutOfBounds _ _ => 4
  | .keyIndexOutOfRange _ => 5

/-- The numeric code of a ConfigurationError (R207). -/
def faultCode : Fault → Nat
  | .romTooLarge _ => 16

/-! ## The call stack (R25) -/

/-- Stack[SP] <- pc, SP <- SP + 1, or StackOverflow when SP = 16 (`40_flow.md` R122). -/
def State.push (s : State) : Except Cause State :=
  if h : s.sp.val < 16 then
    .ok { s with stack := s.stack.set s.sp.val s.pc h, sp := ⟨s.sp.val + 1, by omega⟩ }
  else .error (.stackOverflow s.pc)

/-- SP <- SP - 1, then pc <- Stack[SP], or StackUnderflow when SP = 0 (`40_flow.md` R120). The entry read stays (R25). -/
def State.pop (s : State) : Except Cause State :=
  if h : s.sp.val = 0 then .error (.stackUnderflow s.pc)
  else .ok { s with pc := s.stack[s.sp.val - 1]'(by omega), sp := ⟨s.sp.val - 1, by omega⟩ }

/-! ## Fetch and decode (`30_encoding.md` R91, R103) -/

/-- The word at pc, big-endian, or MemoryOutOfBounds(pc, fetch) when pc > 4094. No alignment check (R64). -/
def fetch (s : State) : Except Cause Word :=
  if s.pc.toNat > 4094 then .error (.memoryOutOfBounds s.pc.toNat .fetch)
  else .ok (wordOfBytes (s.byte s.pc.toNat) (s.byte (s.pc.toNat + 1)))

/-- The fault a rejected word raises (R96, R202). A fetched word is never truncated. -/
def rejectCause (op : Word) : Reject → Cause
  | .unknownOpcode w => .unknownOpcode w
  | .truncated _ => .unknownOpcode op

/-- Fetch, then decode: the instruction of the Step, or the fault that ends it (R209). -/
def nextInstr (s : State) : Except Cause Instr :=
  match fetch s with
  | .error c => .error c
  | .ok op =>
    match decode op with
    | .ok i => .ok i
    | .error r => .error (rejectCause op r)

/-! ## Placing an instruction for the next Step (log 17) -/

/-- pc when a word can be fetched there, else ROM_BASE. -/
def fetchablePc (pc : Word) : Word := if pc.toNat > 4094 then BitVec.ofNat 16 Config.romBase else pc

/-- Make `bs` the bytes that the very next Step fetches: stored at pc, with Run Running; pc moves only where nothing
could be fetched. -/
def placeAtFetch (s : State) (bs : List Byte) : State :=
  ((s.setPc (fetchablePc s.pc)).setRun .running).storeBytes (fetchablePc s.pc).toNat bs

end Sys2Proof.Machine
end

