-- ==== Sys2Proof/Machine/Operands.lean ====
section
/-! DEFINITION. The operand forms: the values that instructions compute from their fields and the registers. Register
and immediate operands are read by `State.reg` and taken as they stand; nothing is sign-extended (`30_encoding.md` R94). -/

namespace Sys2Proof.Machine

/-- zext_16(NNN), the target of 1NNN and 2NNN and the value of ANNN (R94). -/
def zextImm (nnn : Imm12) : Word := nnn.setWidth 16

/-- zext_16(V[x]). -/
def State.zextReg (s : State) (x : Reg) : Word := (s.reg x).setWidth 16

/-- The target of BNNN: NNN + V[0], not reduced to 12 bits (`40_flow.md` R123). -/
def State.offsetTarget (s : State) (nnn : Imm12) : Word := zextImm nnn + s.zextReg 0

/-- The glyph address of FX29: V[x] * 5, V[x] not masked (`43_index_memory.md` R162). -/
def State.glyphAddress (s : State) (x : Reg) : Word := s.zextReg x * BitVec.ofNat 16 Config.glyphBytes

/-- The base address of DXYN, FX33, FX55 and FX65: I as a mathematical integer (R166). -/
def State.base (s : State) : Nat := s.index.toNat

/-- The three decimal digits of a byte, hundreds first (R163). -/
def decimalDigits (b : Byte) : List Byte :=
  [BitVec.ofNat 8 (b.toNat / 100), BitVec.ofNat 8 (b.toNat / 10 % 10), BitVec.ofNat 8 (b.toNat % 10)]

/-- How many registers FX55 and FX65 move: V[0] to V[x] inclusive (R164). -/
def blockCount (x : Reg) : Nat := x.val + 1

/-- V[0] to V[x], the bytes that FX55 stores (R164). -/
def State.regBlock (s : State) (x : Reg) : List Byte := s.v.toList.take (blockCount x)

/-- The registers after FX65 has loaded V[0] to V[x] from memory at I; the others as before (R165). -/
def State.loadedRegs (s : State) (x : Reg) : Vector Byte 16 :=
  Vector.ofFn fun j : Fin 16 => if j.val ≤ x.val then s.byte (s.base + j.val) else s.v[j]

/-- I after FX55 and FX65: (I + X + 1) mod 65536 (R164, R165). -/
def State.indexAfterBlock (s : State) (x : Reg) : Word := s.index + BitVec.ofNat 16 (blockCount x)

/-- The sprite of DXYN: N bytes from I on, row 0 first (`44_display.md` R173). -/
def State.sprite (s : State) (n : Fin 16) : List Byte := s.mem.readBytes s.fontset s.base n.val

/-- The indexes of the pressed keys, lowest first. -/
def pressedKeys (keys : Vector Bool 16) : List Reg := (List.finRange 16).filter fun k => keys[k]

/-- The key FX0A reports: none when none is pressed, the one when one is, and a free choice among them when several are
(`45_keypad_timers.md` R182; log 4). -/
def pickKey (keys : Vector Bool 16) (draws : Nat) : Option Reg :=
  match pressedKeys keys with
  | [] => none
  | [k] => some k
  | k :: k' :: ks => some ((k :: k' :: ks).getD (Config.keyPick keys draws % (ks.length + 2)) k)

end Sys2Proof.Machine
end

