-- ==== Sys2Proof/Machine/Alu.lean ====
section
/-! DEFINITION. Register load, arithmetic, logic, shifts and the random byte: 6XNN, 7XNN, 8XY0 to 8XYE, CXNN
(`42_alu.md`). None can fault; each ends with pc <- pc + 2. -/

namespace Sys2Proof.Machine

/-- 6XNN (R140): V[X] <- NN. -/
def execLdVxNn (x : Reg) (nn : Byte) (s : State) : Outcome := .next (s.setReg x nn).advance

/-- 7XNN (R141): V[X] <- (V[X] + NN) mod 256, no flag. -/
def execAddVxNn (x : Reg) (nn : Byte) (s : State) : Outcome := .next (s.setReg x (s.reg x + nn)).advance

/-- 8XY0 (R142): V[X] <- V[Y]. -/
def execLdVxVy (x y : Reg) (s : State) : Outcome := .next (s.setReg x (s.reg y)).advance

/-- 8XY1 (R143): V[X] <- V[X] OR V[Y], no flag. -/
def execOrVxVy (x y : Reg) (s : State) : Outcome := .next (s.setReg x (s.reg x ||| s.reg y)).advance

/-- 8XY2 (R144): V[X] <- V[X] AND V[Y], no flag. -/
def execAndVxVy (x y : Reg) (s : State) : Outcome := .next (s.setReg x (s.reg x &&& s.reg y)).advance

/-- 8XY3 (R145): V[X] <- V[X] XOR V[Y], no flag. -/
def execXorVxVy (x y : Reg) (s : State) : Outcome := .next (s.setReg x (s.reg x ^^^ s.reg y)).advance

/-- 8XY4 (R146): the sum is formed from the old values, then V[15] <- carry, then V[X] <- sum mod 256. -/
def execAddVxVy (x y : Reg) (s : State) : Outcome :=
  .next (s.flagThen (carryFlag (s.reg x) (s.reg y)) x fun _ => s.reg x + s.reg y).advance

/-- 8XY5 (R147): V[15] <- not borrow, then V[X] <- (V[X] - V[Y]) mod 256, read after the flag write. -/
def execSubVxVy (x y : Reg) (s : State) : Outcome :=
  .next (s.flagThen (notBorrowFlag (s.reg x) (s.reg y)) x fun t => t.reg x - t.reg y).advance

/-- 8XY6 (R148): V[15] <- bit 0 of V[X], then V[X] <- V[X] >> 1, read after the flag write. V[Y] is not used (D24). -/
def execShrVx (x _y : Reg) (s : State) : Outcome :=
  .next (s.flagThen (lowBitFlag (s.reg x)) x fun t => t.reg x >>> 1).advance

/-- 8XY7 (R149): V[15] <- not borrow, then V[X] <- (V[Y] - V[X]) mod 256, read after the flag write. -/
def execSubnVxVy (x y : Reg) (s : State) : Outcome :=
  .next (s.flagThen (notBorrowFlag (s.reg y) (s.reg x)) x fun t => t.reg y - t.reg x).advance

/-- 8XYE (R150): V[15] <- bit 7 of V[X], then V[X] <- (V[X] << 1) mod 256, read after the flag write. V[Y] is not used. -/
def execShlVx (x _y : Reg) (s : State) : Outcome :=
  .next (s.flagThen (highBitFlag (s.reg x)) x fun t => t.reg x <<< 1).advance

/-- CXNN (R151): V[X] <- RND AND NN, RND a free byte, a new one for every executed CXNN (log 3). -/
def execRndVxNn (x : Reg) (nn : Byte) (s : State) : Outcome :=
  .next (s.setReg x (Config.freeByte s.draws &&& nn)).drawn.advance

end Sys2Proof.Machine
end

