-- ==== Sys2Proof/Machine/Display.lean ====
section
/-! DEFINITION. The framebuffer instructions 00E0 and DXYN (`44_display.md`), and the host's picture of the framebuffer.
A sprite row is drawn as one 64-bit mask: pixels of one DXYN never overlap (R171), so the order of the loops of the
rule's pseudocode does not matter. -/

namespace Sys2Proof.Machine

/-- The pixels that one sprite byte toggles in a row: bit 7 is the leftmost, at column `x0`; columns above 63 are
clipped, the origin is not reduced (R172, R173; log 11). -/
def spriteMask (b : Byte) (x0 : Nat) : BitVec 64 := (b.reverse.setWidth 64) <<< x0

/-- The pixels that a sprite at (`x0`, `y0`) toggles in row `y`: those of its byte `y - y0`, if it has one (R172). -/
def spriteRow (sprite : List Byte) (x0 y0 y : Nat) : BitVec 64 :=
  if y0 ≤ y then spriteMask (sprite.getD (y - y0) 0) x0 else 0

/-- The framebuffer after the sprite has been drawn by exclusive OR; rows above 31 are clipped (R171). -/
def blit (fb : Framebuffer) (sprite : List Byte) (x0 y0 : Nat) : Framebuffer :=
  Vector.ofFn fun y : Fin 32 => fb[y] ^^^ spriteRow sprite x0 y0 y.val

/-- Whether any visible pixel goes from 1 to 0 (R171). -/
def collides (fb : Framebuffer) (sprite : List Byte) (x0 y0 : Nat) : Bool :=
  (List.finRange 32).any fun y => fb[y] &&& spriteRow sprite x0 y0 y.val != 0

/-- 00E0 (R170): every pixel 0, RedrawFlag 1. -/
def execCls (s : State) : Outcome := .next (s.redrawWith (Vector.replicate 32 0)).advance

/-- DXYN (R171): the N bytes at I are checked and read, clipped rows included; drawn at (V[X], V[Y]) as they were before
VF is written; VF <- collision; RedrawFlag <- 1. -/
def execDrwVxVyN (x y : Reg) (n : Fin 16) (s : State) : Outcome :=
  let x0 := (s.reg x).toNat
  let y0 := (s.reg y).toNat
  guardSpan s.base n.val .read s
    ((s.redrawWith (blit s.fb (s.sprite n) x0 y0)).setReg flagReg
      (flagByte (collides s.fb (s.sprite n) x0 y0))).advance

/-- The host's framebuffer snapshot as a linear array: cell (x, y) at index x + 64 * y (`10_state.md` R27). -/
def State.snapshot (s : State) : List Bool :=
  (List.range (64 * 32)).map fun k => s.pixel (k % 64) (k / 64)

end Sys2Proof.Machine
end

