-- ==== Sys2Proof/Machine/Flow.lean ====
section
/-! DEFINITION. Control transfer: 00EE, 1NNN, 2NNN, BNNN (`40_flow.md`). -/

namespace Sys2Proof.Machine

/-- 00EE (R120): SP <- SP - 1; pc <- Stack[SP]; pc <- (pc + 2) mod 65536. StackUnderflow when SP = 0. -/
def execRet (s : State) : Outcome := settle s (s.pop.map State.advance)

/-- 1NNN (R121): pc <- zext_16(NNN). -/
def execJpNnn (nnn : Imm12) (s : State) : Outcome := .next (s.setPc (zextImm nnn))

/-- 2NNN (R122): Stack[SP] <- pc, the call's own address; SP <- SP + 1; pc <- zext_16(NNN). StackOverflow when SP = 16. -/
def execCallNnn (nnn : Imm12) (s : State) : Outcome := settle s (s.push.map fun t => t.setPc (zextImm nnn))

/-- BNNN (R123): pc <- NNN + V[0]. -/
def execJpV0Nnn (nnn : Imm12) (s : State) : Outcome := .next (s.setPc (s.offsetTarget nnn))

end Sys2Proof.Machine
end

