-- ==== Sys2Proof/Machine/Index.lean ====
section
/-! DEFINITION. The index register and memory transfer: ANNN, FX1E, FX29, FX33, FX55, FX65 (`43_index_memory.md`). -/

namespace Sys2Proof.Machine

/-- ANNN (R160): I <- zext_16(NNN). -/
def execLdINnn (nnn : Imm12) (s : State) : Outcome := .next (s.setIndex (zextImm nnn)).advance

/-- FX1E (R161): V[15] <- index overflow of the mathematical sum, then I <- (I + V[X]) mod 65536, V[X] read after the
flag write. -/
def execAddIVx (x : Reg) (s : State) : Outcome :=
  let t := s.setReg flagReg (indexOverflowFlag s.index (s.reg x))
  .next (t.setIndex (t.index + t.zextReg x)).advance

/-- FX29 (R162): I <- V[X] * 5. -/
def execLdFVx (x : Reg) (s : State) : Outcome := .next (s.setIndex (s.glyphAddress x)).advance

/-- FX33 (R163): the three decimal digits of V[X] at I, I + 1, I + 2; I unchanged. -/
def execLdBVx (x : Reg) (s : State) : Outcome :=
  guardSpan s.base 3 .write s (s.storeBytes s.base (decimalDigits (s.reg x))).advance

/-- FX55 (R164): V[0] to V[X] at I to I + X, then I <- I + X + 1. -/
def execLdMemVx (x : Reg) (s : State) : Outcome :=
  guardSpan s.base (blockCount x) .write s
    ((s.storeBytes s.base (s.regBlock x)).setIndex (s.indexAfterBlock x)).advance

/-- FX65 (R165): V[0] to V[X] from I to I + X, then I <- I + X + 1. -/
def execLdVxMem (x : Reg) (s : State) : Outcome :=
  guardSpan s.base (blockCount x) .read s
    ((s.setRegs (s.loadedRegs x)).setIndex (s.indexAfterBlock x)).advance

end Sys2Proof.Machine
end

