-- ==== Sys2Proof/Machine/Keypad.lean ====
section
/-! DEFINITION. The keypad and timer instructions: EX9E, EXA1, FX0A, FX07, FX15, FX18 (`45_keypad_timers.md`). -/

namespace Sys2Proof.Machine

/-- Skip if the state of the key V[x] is `pressed`; KeyIndexOutOfRange when V[x] is above 15, the whole byte being the
index (R180, R206). -/
def skipOnKey (x : Reg) (pressed : Bool) (s : State) : Outcome :=
  if h : (s.reg x).toNat < 16 then .next (s.skipIf (s.keys[(s.reg x).toNat]'h == pressed))
  else raise (.keyIndexOutOfRange (s.reg x)) s

/-- EX9E (R180): skip if the key is pressed. -/
def execSkpVx (x : Reg) (s : State) : Outcome := skipOnKey x true s

/-- EXA1 (R181): skip if the key is not pressed. -/
def execSknpVx (x : Reg) (s : State) : Outcome := skipOnKey x false s

/-- FX0A (R182): with no key pressed nothing changes, pc included; else V[X] <- a pressed key. -/
def execLdVxK (x : Reg) (s : State) : Outcome :=
  match pickKey s.keys s.draws with
  | none => .next s
  | some k => .next (s.setReg x (BitVec.ofNat 8 k.val)).drawn.advance

/-- FX07 (R183): V[X] <- DT. -/
def execLdVxDt (x : Reg) (s : State) : Outcome := .next (s.setReg x s.dt).advance

/-- FX15 (R184): DT <- V[X]. -/
def execLdDtVx (x : Reg) (s : State) : Outcome := .next (s.setDt (s.reg x)).advance

/-- FX18 (R185): ST <- V[X]. -/
def execLdStVx (x : Reg) (s : State) : Outcome := .next (s.setSt (s.reg x)).advance

end Sys2Proof.Machine
end

