-- ==== Sys2Proof/Machine/Skip.lean ====
section
/-! DEFINITION. The register-compare skips: 3XNN, 4XNN, 5XY0, 9XY0 (`41_skip.md`). pc is their only effect (R134). -/

namespace Sys2Proof.Machine

/-- 3XNN (R130): skip if V[X] = NN. -/
def execSeVxNn (x : Reg) (nn : Byte) (s : State) : Outcome := .next (s.skipIf (s.reg x == nn))

/-- 4XNN (R131): skip if V[X] differs from NN. -/
def execSneVxNn (x : Reg) (nn : Byte) (s : State) : Outcome := .next (s.skipIf (s.reg x != nn))

/-- 5XY0 (R132): skip if V[X] = V[Y]. -/
def execSeVxVy (x y : Reg) (s : State) : Outcome := .next (s.skipIf (s.reg x == s.reg y))

/-- 9XY0 (R133): skip if V[X] differs from V[Y]. -/
def execSneVxVy (x y : Reg) (s : State) : Outcome := .next (s.skipIf (s.reg x != s.reg y))

end Sys2Proof.Machine
end

