-- ==== Sys2Proof/Machine/Step.lean ====
section
/-! DEFINITION. The Step event (`30_encoding.md` R103): if Run is Faulted nothing; else fetch, decode, execute, each of
which may raise a fault. Also the placing of an instruction where the next Step fetches it. -/

namespace Sys2Proof.Machine

/-- One Step event. -/
def step (s : State) : Host.Outcome State Fault Refusal :=
  match s.run with
  | .faulted _ => .next s
  | .running =>
    match nextInstr s with
    | .error c => raise c s
    | .ok i => exec i s

/-- `s` with the instruction whose bits are `w` stored where the next Step fetches it (log 17). -/
def State.withFetchWord (s : State) (nbits w : Nat) : State := placeAtFetch s (tableWordBytes nbits w)

end Sys2Proof.Machine
end

