-- ==== Sys2Proof/Machine/Events.lean ====
section
/-! DEFINITION. The six atomic events (`00_scope.md` R6) through which state changes, the Step event among them, and a
session as a list of events in the host's order (R7; log 7). -/

namespace Sys2Proof.Machine

/-- The events, all issued by the host. -/
inductive Event where
  | boot
  | loadRom (bytes : List Byte)
  | setKeys (keys : Vector Bool 16)
  | step
  | timerTick
  | redrawAck
  deriving DecidableEq, Repr

/-- One tick of a counter: it stops at 0 (`60_exceptions.md` R213). -/
def countDown (b : Byte) : Byte := if b = 0 then 0 else b - 1

/-- Boot (`70_reset_and_hazards.md` R240): every element of the state to its reset value, from any state. FONTSET
stays the machine's own, and the model's count of free values goes on, so that no byte drawn before a Boot is promised again after it (log 6). -/
def boot (s : State) : State := { State.resetWith s.fontset with draws := s.draws }

/-- LoadROM when Run is Running (R241): the bytes at 0x200 on, or ConfigurationError.RomTooLarge and no change. -/
def loadRom (bytes : List Byte) (s : State) : Outcome :=
  if bytes.length > Config.romMax then .fault (.romTooLarge bytes.length)
  else .next (s.storeBytes Config.romBase bytes)

/-- SetKeys when Run is Running (R216). -/
def setKeys (keys : Vector Bool 16) (s : State) : State := { s with keys := keys }

/-- TimerTick when Run is Running (R213). -/
def timerTick (s : State) : State := { s with dt := countDown s.dt, st := countDown s.st }

/-- RedrawAck when Run is Running (R217; log 15). -/
def redrawAck (s : State) : State := { s with redraw := false }

/-- The effect of an event when Run is Running. -/
def eventRunning (e : Event) (s : State) : Outcome :=
  match e with
  | .boot => .next (boot s)
  | .loadRom bytes => loadRom bytes s
  | .setKeys keys => .next (setKeys keys s)
  | .step => Sys2Proof.Machine.step s
  | .timerTick => .next (timerTick s)
  | .redrawAck => .next (redrawAck s)

/-- The effect of an event when Run is Faulted: only Boot has one (`10_state.md` R30, R211). -/
def eventFaulted (e : Event) (s : State) : Outcome :=
  match e with
  | .boot => .next (boot s)
  | .loadRom _ | .setKeys _ | .step | .timerTick | .redrawAck => .next s

/-- One event. -/
def event (e : Event) (s : State) : Outcome :=
  match s.run with
  | .running => eventRunning e s
  | .faulted _ => eventFaulted e s

/-- The state an event leaves: a ConfigurationError leaves it as it was (R207). -/
def afterEvent (e : Event) (s : State) : State :=
  match event e s with
  | .next t => t
  | .fault _ => s
  | .refused _ => s

/-- The state a session of events leaves, in the host's order. -/
def session : List Event → State → State
  | [], s => s
  | e :: es, s => session es (afterEvent e s)

end Sys2Proof.Machine
end

