-- ==== Sys2Proof/Safety.lean ====
section
/-! DEFINITION. The terms claims are stated in: what two states agree on, frames, safe steps and runs, the invariants of
the machine, and which parts of the state the spec lets each instruction write. -/

namespace Sys2Proof.Machine

/-! ## Frames -/

/-- The parts of the state (`10_state.md` R20, the parameter FONTSET, and the model's own `draws`). -/
inductive Part where
  | regs | index | pc | stack | sp | dt | st | fb | redraw | keys | mem | run | fontset | draws
  deriving DecidableEq, Repr

/-- Two states agree on a part: registers one by one, memory byte by byte, the framebuffer pixel by pixel. -/
def Agree : Part → State → State → Prop
  | .regs, s, t => ∀ j : Reg, t.reg j = s.reg j
  | .index, s, t => t.index = s.index
  | .pc, s, t => t.pc = s.pc
  | .stack, s, t => ∀ k : Fin 16, t.stack[k] = s.stack[k]
  | .sp, s, t => t.sp = s.sp
  | .dt, s, t => t.dt = s.dt
  | .st, s, t => t.st = s.st
  | .fb, s, t => ∀ x y : Nat, t.pixel x y = s.pixel x y
  | .redraw, s, t => t.redraw = s.redraw
  | .keys, s, t => ∀ k : Fin 16, t.keys[k] = s.keys[k]
  | .mem, s, t => ∀ a : Nat, t.byte a = s.byte a
  | .run, s, t => t.run = s.run
  | .fontset, s, t => t.fontset = s.fontset
  | .draws, s, t => t.draws = s.draws

/-- Every part that is not listed is as before. -/
def Frame (changed : List Part) (s t : State) : Prop := ∀ p, p ∉ changed → Agree p s t

/-- V[x] holds `b` afterwards and every other V register what it held. -/
def SetsReg (x : Reg) (b : Byte) (s t : State) : Prop := t.reg x = b ∧ ∀ j, j ≠ x → t.reg j = s.reg j

/-- V[x] holds `b` afterwards, V[15] the flag unless x is 15, and every other V register what it held. -/
def SetsRegAndFlag (x : Reg) (b flag : Byte) (s t : State) : Prop :=
  t.reg x = b ∧ (x ≠ flagReg → t.reg flagReg = flag) ∧ ∀ j, j ≠ x → j ≠ flagReg → t.reg j = s.reg j

/-- pc has moved by `n`, modulo 65536. -/
def PcMoves (n : Nat) (s t : State) : Prop := t.pc.toNat = (s.pc.toNat + n) % 65536

/-- V[j] as an instruction reads it that has just written `flag` to V[15] (`42_alu.md` R153). -/
def regAfterFlag (s : State) (flag : Byte) (j : Reg) : Byte := if j = flagReg then flag else s.reg j

/-! ## Faults and safe runs -/

/-- The fault `c` has been taken in `s`: the answer is the state `s` with Run Faulted and nothing else changed (R210). -/
def TakesFault (c : Cause) (s : State) (o : Outcome) : Prop := o = .next { s with run := .faulted c }

/-- The step completes: it answers a next state in which Run is Running. -/
def StepSafe (s : State) : Prop := ∃ t, step s = .next t ∧ t.run = .running

/-- `n` steps complete one after the other. -/
def RunSafe : Nat → State → Prop
  | 0, _ => True
  | n + 1, s => ∃ t, step s = .next t ∧ t.run = .running ∧ RunSafe n t

/-! ## Invariants -/

/-- Memory is in canonical form. -/
def State.Canonical (s : State) : Prop := s.mem.wf s.fontset = true

/-- Every live stack entry is an address a Step has fetched from, and pc is at most 0x10FE (`10_state.md` R24, R25). -/
def State.PcInRange (s : State) : Prop :=
  s.pc.toNat ≤ 0x10FE ∧ ∀ k : Fin 16, k.val < s.sp.val → (s.stack[k]).toNat ≤ 4094

/-- The values after a Boot event, element by element: the table of `10_state.md` R34, for a FONTSET. -/
def State.BootValues (font : Fontset) (s : State) : Prop :=
  (∀ x : Reg, s.reg x = 0) ∧ s.index = 0 ∧ s.pc = 0x200 ∧ (∀ k : Fin 16, s.stack[k] = 0) ∧ s.sp.val = 0 ∧
  s.dt = 0 ∧ s.st = 0 ∧ (∀ x y, x < 64 → y < 32 → s.pixel x y = false) ∧ s.redraw = false ∧
  (∀ k : Fin 16, s.keys[k] = false) ∧ (∀ a : Fin 80, s.byte a.val = font[a]) ∧
  (∀ a, 80 ≤ a → a < 4096 → s.byte a = 0) ∧ s.run = .running

/-! ## Who writes what -/

/-- The parts that an instruction may change: the column "written by" of R20, pc (R24), Run for the instructions of R201
that can fault, and `draws` for the two that draw a free value. -/
def mayChange : Instr → List Part
  | .cls => [.fb, .redraw, .pc]
  | .ret => [.sp, .pc, .run]
  | .callNnn _ => [.stack, .sp, .pc, .run]
  | .jpNnn _ | .jpV0Nnn _ => [.pc]
  | .seVxNn _ _ | .sneVxNn _ _ | .seVxVy _ _ | .sneVxVy _ _ => [.pc]
  | .ldVxNn _ _ | .addVxNn _ _ | .ldVxVy _ _ | .orVxVy _ _ | .andVxVy _ _ | .xorVxVy _ _ => [.regs, .pc]
  | .addVxVy _ _ | .subVxVy _ _ | .shrVx _ _ | .subnVxVy _ _ | .shlVx _ _ => [.regs, .pc]
  | .rndVxNn _ _ | .ldVxK _ => [.regs, .pc, .draws]
  | .ldINnn _ | .ldFVx _ => [.index, .pc]
  | .addIVx _ => [.regs, .index, .pc]
  | .drwVxVyN _ _ _ => [.regs, .fb, .redraw, .pc, .run]
  | .skpVx _ | .sknpVx _ => [.pc, .run]
  | .ldVxDt _ => [.regs, .pc]
  | .ldDtVx _ => [.dt, .pc]
  | .ldStVx _ => [.st, .pc]
  | .ldBVx _ => [.mem, .pc, .run]
  | .ldMemVx _ => [.mem, .index, .pc, .run]
  | .ldVxMem _ => [.regs, .index, .pc, .run]

/-- The V registers that an instruction may change: its destination, and V[15] for the seven flag writers of R22. -/
def mayWriteReg : Instr → Reg → Bool
  | .ldVxNn x _, j | .addVxNn x _, j | .rndVxNn x _, j => j == x
  | .ldVxVy x _, j | .orVxVy x _, j | .andVxVy x _, j | .xorVxVy x _, j => j == x
  | .ldVxDt x, j | .ldVxK x, j => j == x
  | .addVxVy x _, j | .subVxVy x _, j | .shrVx x _, j | .subnVxVy x _, j | .shlVx x _, j => j == x || j == flagReg
  | .drwVxVyN _ _ _, j | .addIVx _, j => j == flagReg
  | .ldVxMem x, j => decide (j.val ≤ x.val)
  | .cls, _ | .ret, _ | .jpNnn _, _ | .callNnn _, _ | .seVxNn _ _, _ | .sneVxNn _ _, _ | .seVxVy _ _, _ => false
  | .sneVxVy _ _, _ | .ldINnn _, _ | .jpV0Nnn _, _ | .skpVx _, _ | .sknpVx _, _ | .ldDtVx _, _ => false
  | .ldStVx _, _ | .ldFVx _, _ | .ldBVx _, _ | .ldMemVx _, _ => false

/-- The instructions whose pc assignment is not always pc + 2 (`30_encoding.md` R99): the jumps, call and return, the six
skips, and FX0A. -/
def steersPc : Instr → Bool
  | .ret | .jpNnn _ | .callNnn _ | .jpV0Nnn _ => true
  | .seVxNn _ _ | .sneVxNn _ _ | .seVxVy _ _ | .sneVxVy _ _ | .skpVx _ | .sknpVx _ => true
  | .ldVxK _ => true
  | .cls | .ldVxNn _ _ | .addVxNn _ _ | .ldVxVy _ _ | .orVxVy _ _ | .andVxVy _ _ | .xorVxVy _ _ => false
  | .addVxVy _ _ | .subVxVy _ _ | .shrVx _ _ | .subnVxVy _ _ | .shlVx _ _ | .ldINnn _ | .rndVxNn _ _ => false
  | .drwVxVyN _ _ _ | .ldVxDt _ | .ldDtVx _ | .ldStVx _ | .addIVx _ | .ldFVx _ | .ldBVx _ => false
  | .ldMemVx _ | .ldVxMem _ => false

/-- The pixel (`cx`, `cy`) is one that DXYN toggles: it lies on a sprite pixel whose bit is 1 (`44_display.md` R172,
R173), for a sprite of `n` bytes at I with its top-left pixel at (`x0`, `y0`). -/
def spritePixel (s : State) (n x0 y0 cx cy : Nat) : Bool :=
  decide (x0 ≤ cx ∧ cx < x0 + 8 ∧ y0 ≤ cy ∧ cy < y0 + n) &&
    (s.byte (s.index.toNat + (cy - y0))).getLsbD (7 - (cx - x0))

end Sys2Proof.Machine
end

