-- ==== Sys2Proof/Certificates/Slice0/Obligations.lean ====
section
/-! DEFINITION. The statements for the provers. Each says in its docstring which rule of `spec/` it formalises. "Takes the
fault c" is `TakesFault`: the state before with Run <- Faulted(c), and nothing else (R210). -/

open Sys2Proof Sys2Proof.Machine

/-! ## Reset, events, faults -/

/-- R34: the state after Boot has the value of the table in every element, for every value of the parameter FONTSET
(`00_scope.md` R5), and `State.reset` has it for the default FONTSET (log 2). -/
def Obligations.ResetHasBootValues : Prop :=
  (∀ font : Fontset, (State.resetWith font).BootValues font) ∧ State.reset.BootValues defaultFontset

/-- R34: a Boot event gives every element that value from every state, Faulted included, whatever FONTSET the machine
has. -/
def Obligations.BootFromAnyState : Prop := ∀ s : State, ∃ t, event .boot s = .next t ∧ t.BootValues s.fontset

/-- R91: the fetch is the two bytes at pc and pc + 1, big-endian, for every pc up to 4094, odd or even; above that the
Step takes MemoryOutOfBounds(pc, fetch). -/
def Obligations.FetchReadsBigEndianWord : Prop :=
  ∀ s : State,
    (s.pc.toNat ≤ 4094 → ∃ op, fetch s = .ok op ∧
      op.toNat = (s.byte s.pc.toNat).toNat * 256 + (s.byte (s.pc.toNat + 1)).toNat) ∧
    (4094 < s.pc.toNat → s.run = .running → TakesFault (.memoryOutOfBounds s.pc.toNat .fetch) s (step s))

/-- R103: when Run is Faulted a Step does nothing; else a fault of the fetch or the decode is all it does, and when
the bytes at pc decode to an instruction it is the execution of that instruction. -/
def Obligations.StepRunsDecodedInstruction : Prop :=
  ∀ s : State,
    (∀ c, s.run = .faulted c → step s = .next s) ∧
    (∀ c, s.run = .running → fetch s = .error c → TakesFault c s (step s)) ∧
    (∀ op r, s.run = .running → fetch s = .ok op → decode op = .error r → TakesFault (.unknownOpcode op) s (step s)) ∧
    (∀ i : Instr, s.run = .running → s.pc.toNat ≤ 4094 → i.wellFormed = true →
      decodeBytes [s.byte s.pc.toNat, s.byte (s.pc.toNat + 1)] = .ok (i, []) → step s = exec i s)

/-- R96, R202: a fetched word that no row of the opcode map selects makes the Step take UnknownOpcode with the word.
-/
def Obligations.UnknownWordFaults : Prop :=
  ∀ (s : State) (op : Word), s.run = .running → fetch s = .ok op →
    (∀ r ∈ opcodeRows, op &&& r.mask ≠ r.value) → TakesFault (.unknownOpcode op) s (step s)

/-- `60_exceptions.md` section 6 (the spec's decision D12, log 10): once Run is Faulted no event but Boot has an
effect, whatever the session issues. -/
def Obligations.FaultedIgnoresAllButBoot : Prop :=
  ∀ (es : List Event) (s : State) (c : Cause), s.run = .faulted c → Event.boot ∉ es →
    (∀ e ∈ es, event e s = .next s) ∧ session es s = s

/-- `60_exceptions.md` section 5 and `00_scope.md` section 4 (the spec's decision D12, log 10): a Step always answers
a next state; from a running state that state is running, or is the state before with Run Faulted and nothing else
changed. -/
def Obligations.StepFaultsArePrecise : Prop :=
  ∀ s : State, s.run = .running → ∃ t, step s = .next t ∧
    (t.run = .running ∨ ∃ c, t = { s with run := .faulted c })

/-- `60_exceptions.md` section 2 (with the spec's decisions D11, D13, D14, log 10): which instruction raises which
cause, under which condition, with which information, and no other. -/
def Obligations.FaultCausesAreThoseListed : Prop :=
  ∀ (i : Instr) (s t : State) (c : Cause), s.run = .running → exec i s = .next t → t.run = .faulted c →
    match c with
    | .unknownOpcode _ => False
    | .stackOverflow a => (∃ nnn, i = .callNnn nnn) ∧ s.sp.val = 16 ∧ a = s.pc
    | .stackUnderflow a => i = .ret ∧ s.sp.val = 0 ∧ a = s.pc
    | .memoryOutOfBounds a kind => a = max s.index.toNat 4096 ∧
        ((∃ x y n, i = .drwVxVyN x y n ∧ kind = .read ∧ n.val ≠ 0 ∧ 4096 < s.index.toNat + n.val) ∨
         (∃ x, i = .ldVxMem x ∧ kind = .read ∧ 4095 < s.index.toNat + x.val) ∨
         (∃ x, i = .ldBVx x ∧ kind = .write ∧ 4095 < s.index.toNat + 2) ∨
         (∃ x, i = .ldMemVx x ∧ kind = .write ∧ 4095 < s.index.toNat + x.val))
    | .keyIndexOutOfRange k => ∃ x, (i = .skpVx x ∨ i = .sknpVx x) ∧ k = s.reg x ∧ 15 < k.toNat

/-! ## Encoding -/

/-- `30_encoding.md` sections 3 and 4: decoding the bytes of an instruction gives the instruction back, whatever bytes
follow. -/
def Obligations.DecodeEncodeRoundTrip : Prop :=
  ∀ (i : Instr) (rest : List Byte), i.wellFormed = true → decodeBytes (encodeBytes i ++ rest) = .ok (i, rest)

/-- `30_encoding.md` section 4 (the exact match, the spec's decision D1, log 5): an instruction has one word; a word
that decodes is the encoding of what it decodes to. -/
def Obligations.EncodeOfDecodedWord : Prop :=
  ∀ (op : Word) (i : Instr), decode op = .ok i → encode i = op

/-- `30_encoding.md` section 5 (the table of R97): a word is an unknown opcode exactly in the classes listed there. -/
def Obligations.UnknownWordsByClass : Prop :=
  ∀ op : Word, decode op = .error (.unknownOpcode op) ↔
    (op.extractLsb' 12 4 = 0x0 ∧ op ≠ 0x00E0 ∧ op ≠ 0x00EE) ∨
    (op.extractLsb' 12 4 = 0x5 ∧ fieldN op ≠ 0) ∨
    (op.extractLsb' 12 4 = 0x8 ∧ 8 ≤ (fieldN op).val ∧ fieldN op ≠ 0xE) ∨
    (op.extractLsb' 12 4 = 0x9 ∧ fieldN op ≠ 0) ∨
    (op.extractLsb' 12 4 = 0xE ∧ fieldNN op ≠ 0x9E ∧ fieldNN op ≠ 0xA1) ∨
    (op.extractLsb' 12 4 = 0xF ∧
      fieldNN op ∉ ([0x07, 0x0A, 0x15, 0x18, 0x1E, 0x29, 0x33, 0x55, 0x65] : List Byte))

/-- `30_encoding.md` R98: the looser reading decodes every word of the exact reading to the same instruction; it only
adds aliases. -/
def Obligations.LooseDecodingExtendsExact : Prop :=
  ∀ (op : Word) (i : Instr), decode op = .ok i → decodeWith true op = .ok i

/-- Words written out from the spec's encodings, one or more of each family, decode to the instructions they stand
for. -/
def Obligations.SampleWordsDecode : Prop :=
  decode 0x00E0 = .ok .cls ∧ decode 0x00EE = .ok .ret ∧ decode 0x1ABC = .ok (.jpNnn 0xABC) ∧
  decode 0x3A42 = .ok (.seVxNn 10 0x42) ∧ decode 0x8AB4 = .ok (.addVxVy 10 11) ∧
  decode 0xC00F = .ok (.rndVxNn 0 0x0F) ∧ decode 0xD7A3 = .ok (.drwVxVyN 7 10 3) ∧
  decode 0xE19E = .ok (.skpVx 1) ∧ decode 0xF115 = .ok (.ldDtVx 1) ∧ decode 0xF265 = .ok (.ldVxMem 2)

/-! ## Control transfer and skips -/

/-- R121: 1NNN loads pc with NNN, odd or even, in range or not; pc is all it changes. -/
def Obligations.JumpLoadsPc : Prop :=
  ∀ (s : State) (nnn : Imm12), ∃ t, exec (.jpNnn nnn) s = .next t ∧ t.pc.toNat = nnn.toNat ∧ Frame [.pc] s t

/-- `40_flow.md` section 2, BNNN: pc is NNN + V[0], not reduced to 12 bits (the spec's decision D4, log 9). -/
def Obligations.OffsetJumpAddsV0 : Prop :=
  ∀ (s : State) (nnn : Imm12), ∃ t, exec (.jpV0Nnn nnn) s = .next t ∧
    t.pc.toNat = nnn.toNat + (s.reg 0).toNat ∧ Frame [.pc] s t

/-- R122: 2NNN pushes its own address and jumps, and takes StackOverflow when SP is 16. -/
def Obligations.CallPushesItsAddress : Prop :=
  ∀ (s : State) (nnn : Imm12),
    (s.sp.val < 16 → ∃ t, exec (.callNnn nnn) s = .next t ∧ t.pc.toNat = nnn.toNat ∧ t.sp.val = s.sp.val + 1 ∧
      (∀ k : Fin 16, t.stack[k] = if k.val = s.sp.val then s.pc else s.stack[k]) ∧ Frame [.pc, .stack, .sp] s t) ∧
    (s.sp.val = 16 → TakesFault (.stackOverflow s.pc) s (exec (.callNnn nnn) s))

/-- R120: 00EE pops the call's address, adds 2 and leaves the entry in place, and takes StackUnderflow when SP is 0.
-/
def Obligations.ReturnPopsAndAddsTwo : Prop :=
  ∀ s : State,
    (∀ k : Fin 16, s.sp.val = k.val + 1 → ∃ t, exec .ret s = .next t ∧ t.sp.val = k.val ∧
      t.pc.toNat = ((s.stack[k]).toNat + 2) % 65536 ∧ Frame [.pc, .sp] s t) ∧
    (s.sp.val = 0 → TakesFault (.stackUnderflow s.pc) s (exec .ret s))

/-- `95_test_vectors.md` S8: a 2NNN followed by a 00EE restores pc to the call site plus 2 and SP to its value before.
-/
def Obligations.CallThenReturnResumes : Prop :=
  ∀ (s : State) (nnn : Imm12), s.sp.val < 16 → ∃ t u, exec (.callNnn nnn) s = .next t ∧ exec .ret t = .next u ∧
    PcMoves 2 s u ∧ u.sp = s.sp ∧ Frame [.pc, .stack] s u

/-- R130 to R134: the four compare skips move pc by 4 when their condition holds and by 2 when not, and change nothing
else. -/
def Obligations.CompareSkipsMovePc : Prop :=
  ∀ (s : State) (x y : Reg) (nn : Byte),
    (∃ t, exec (.seVxNn x nn) s = .next t ∧ PcMoves (if s.reg x = nn then 4 else 2) s t ∧ Frame [.pc] s t) ∧
    (∃ t, exec (.sneVxNn x nn) s = .next t ∧ PcMoves (if s.reg x ≠ nn then 4 else 2) s t ∧ Frame [.pc] s t) ∧
    (∃ t, exec (.seVxVy x y) s = .next t ∧ PcMoves (if s.reg x = s.reg y then 4 else 2) s t ∧ Frame [.pc] s t) ∧
    (∃ t, exec (.sneVxVy x y) s = .next t ∧ PcMoves (if s.reg x ≠ s.reg y then 4 else 2) s t ∧ Frame [.pc] s t)

/-! ## Registers and arithmetic -/

/-- R140, R142: 6XNN and 8XY0 load V[X]. -/
def Obligations.LoadsSetRegister : Prop :=
  ∀ (s : State) (x y : Reg) (nn : Byte),
    (∃ t, exec (.ldVxNn x nn) s = .next t ∧ SetsReg x nn s t ∧ PcMoves 2 s t ∧ Frame [.regs, .pc] s t) ∧
    (∃ t, exec (.ldVxVy x y) s = .next t ∧ SetsReg x (s.reg y) s t ∧ PcMoves 2 s t ∧ Frame [.regs, .pc] s t)

/-- R141: 7XNN adds modulo 256 and records no carry; V[15] changes only as the destination. -/
def Obligations.AddImmediateWraps : Prop :=
  ∀ (s : State) (x : Reg) (nn : Byte), ∃ t, exec (.addVxNn x nn) s = .next t ∧
    (∃ b : Byte, b.toNat = ((s.reg x).toNat + nn.toNat) % 256 ∧ SetsReg x b s t) ∧ PcMoves 2 s t ∧
    Frame [.regs, .pc] s t

/-- R143, R144, R145: 8XY1, 8XY2 and 8XY3 are bitwise and write no flag. -/
def Obligations.LogicIsBitwise : Prop :=
  ∀ (s : State) (x y : Reg),
    (∃ t b, exec (.orVxVy x y) s = .next t ∧ SetsReg x b s t ∧ PcMoves 2 s t ∧ Frame [.regs, .pc] s t ∧
      ∀ k, b.getLsbD k = ((s.reg x).getLsbD k || (s.reg y).getLsbD k)) ∧
    (∃ t b, exec (.andVxVy x y) s = .next t ∧ SetsReg x b s t ∧ PcMoves 2 s t ∧ Frame [.regs, .pc] s t ∧
      ∀ k, b.getLsbD k = ((s.reg x).getLsbD k && (s.reg y).getLsbD k)) ∧
    (∃ t b, exec (.xorVxVy x y) s = .next t ∧ SetsReg x b s t ∧ PcMoves 2 s t ∧ Frame [.regs, .pc] s t ∧
      ∀ k, b.getLsbD k = ((s.reg x).getLsbD k != (s.reg y).getLsbD k))

/-- `42_alu.md` section 2, 8XY4: the sum is formed from the old registers, V[15] is the carry unless X is F, V[X] the
sum modulo 256. What happens with X = F or Y = F is the spec's own decision D2, on which its source is silent (log 9).
-/
def Obligations.AddWritesCarryThenSum : Prop :=
  ∀ (s : State) (x y : Reg), ∃ t b, exec (.addVxVy x y) s = .next t ∧
    b.toNat = ((s.reg x).toNat + (s.reg y).toNat) % 256 ∧
    SetsRegAndFlag x b (if (s.reg x).toNat + (s.reg y).toNat > 255 then 1 else 0) s t ∧
    PcMoves 2 s t ∧ Frame [.regs, .pc] s t

/-- `42_alu.md` section 2, 8XY5: not-borrow to V[15], then V[X] - V[Y] modulo 256 of the registers as that write left
them. That X = F or Y = F is read after the flag write is the spec's own decision D2, on which its source is silent
(log 9). -/
def Obligations.SubWritesFlagThenDifference : Prop :=
  ∀ (s : State) (x y : Reg) (f : Byte), f = (if (s.reg x).toNat < (s.reg y).toNat then 0 else 1) →
    ∃ t b, exec (.subVxVy x y) s = .next t ∧
      b.toNat = ((regAfterFlag s f x).toNat + 256 - (regAfterFlag s f y).toNat) % 256 ∧
      SetsRegAndFlag x b f s t ∧ PcMoves 2 s t ∧ Frame [.regs, .pc] s t

/-- `42_alu.md` section 2, 8XY7: not-borrow to V[15], then V[Y] - V[X] modulo 256 of the registers as that write left
them. That X = F or Y = F is read after the flag write is the spec's own decision D2, on which its source is silent
(log 9). -/
def Obligations.SubnWritesFlagThenDifference : Prop :=
  ∀ (s : State) (x y : Reg) (f : Byte), f = (if (s.reg x).toNat > (s.reg y).toNat then 0 else 1) →
    ∃ t b, exec (.subnVxVy x y) s = .next t ∧
      b.toNat = ((regAfterFlag s f y).toNat + 256 - (regAfterFlag s f x).toNat) % 256 ∧
      SetsRegAndFlag x b f s t ∧ PcMoves 2 s t ∧ Frame [.regs, .pc] s t

/-- `42_alu.md` section 2, 8XY6 and 8XYE: the bit shifted out to V[15], then the shift of V[X] as that write left it;
the Y field plays no part (the source's own convention, D24). That X = F is read after the flag write is the spec's
own decision D2, on which its source is silent (log 9). -/
def Obligations.ShiftsMoveOneBit : Prop :=
  ∀ (s : State) (x y : Reg),
    (∃ t b f, exec (.shrVx x y) s = .next t ∧ f = BitVec.ofNat 8 ((s.reg x).toNat % 2) ∧
      b.toNat = (regAfterFlag s f x).toNat / 2 ∧ SetsRegAndFlag x b f s t ∧ PcMoves 2 s t ∧ Frame [.regs, .pc] s t) ∧
    (∃ t b f, exec (.shlVx x y) s = .next t ∧ f = BitVec.ofNat 8 ((s.reg x).toNat / 128) ∧
      b.toNat = (regAfterFlag s f x).toNat * 2 % 256 ∧ SetsRegAndFlag x b f s t ∧ PcMoves 2 s t ∧
      Frame [.regs, .pc] s t)

/-- `42_alu.md` section 2, CXNN (the spec's decision D16): V[X] is loaded with some byte masked by NN. Of the byte
nothing is known; the model's count of drawn values is the one other thing that changes (log 3). -/
def Obligations.RandomByteIsMasked : Prop :=
  ∀ (s : State) (x : Reg) (nn : Byte), ∃ t r, exec (.rndVxNn x nn) s = .next t ∧ SetsReg x (r &&& nn) s t ∧
    PcMoves 2 s t ∧ Frame [.regs, .pc, .draws] s t

/-- The model's own form of the fresh draw (log 3, a DESIGN CHOICE of the model): every executed CXNN, whatever its
NN, takes the next free byte and counts it, and no event lowers the count, so no free byte is drawn twice. -/
def Obligations.FreeBytesAreDrawnOnce : Prop :=
  (∀ (s : State) (x : Reg) (nn : Byte), ∃ t, exec (.rndVxNn x nn) s = .next t ∧
    t.reg x = Config.freeByte s.draws &&& nn ∧ t.draws = s.draws + 1) ∧
  (∀ (e : Event) (s t : State), event e s = .next t → s.draws ≤ t.draws)

/-! ## Index register and memory -/

/-- R160: ANNN loads I with NNN. -/
def Obligations.LoadIndexImmediate : Prop :=
  ∀ (s : State) (nnn : Imm12), ∃ t, exec (.ldINnn nnn) s = .next t ∧ t.index.toNat = nnn.toNat ∧ PcMoves 2 s t ∧
    Frame [.index, .pc] s t

/-- `43_index_memory.md` section 2, FX29: I is five times V[X], not masked to a nibble (the spec's decision D22, log
9). -/
def Obligations.GlyphAddressIsFiveTimes : Prop :=
  ∀ (s : State) (x : Reg), ∃ t, exec (.ldFVx x) s = .next t ∧ t.index.toNat = (s.reg x).toNat * 5 ∧ PcMoves 2 s t ∧
    Frame [.index, .pc] s t

/-- `43_index_memory.md` section 2, FX1E: V[15] says whether the unwrapped sum exceeds 0xFFF, then V[X], as that write
left it, is added to I modulo 65536 (the spec's decisions D2, D3, D4, log 9). -/
def Obligations.AddIndexFlagsAndWraps : Prop :=
  ∀ (s : State) (x : Reg) (f : Byte), f = (if s.index.toNat + (s.reg x).toNat > 0xFFF then 1 else 0) →
    ∃ t, exec (.addIVx x) s = .next t ∧ t.index.toNat = (s.index.toNat + (regAfterFlag s f x).toNat) % 65536 ∧
      SetsReg flagReg f s t ∧ PcMoves 2 s t ∧ Frame [.regs, .index, .pc] s t

/-- R163: FX33 stores the three decimal digits of V[X] at I, I + 1, I + 2 and nothing else, or takes MemoryOutOfBounds
when I + 2 is above 4095. (The premise is the invariant that memory is canonical.) -/
def Obligations.DecimalDigitsStored : Prop :=
  ∀ (s : State) (x : Reg),
    (s.Canonical → s.index.toNat + 2 ≤ 4095 → ∃ t, exec (.ldBVx x) s = .next t ∧
      (t.byte s.index.toNat).toNat = (s.reg x).toNat / 100 ∧
      (t.byte (s.index.toNat + 1)).toNat = (s.reg x).toNat / 10 % 10 ∧
      (t.byte (s.index.toNat + 2)).toNat = (s.reg x).toNat % 10 ∧
      (∀ a, a < s.index.toNat ∨ s.index.toNat + 2 < a → t.byte a = s.byte a) ∧
      PcMoves 2 s t ∧ Frame [.mem, .pc] s t) ∧
    (4095 < s.index.toNat + 2 → TakesFault (.memoryOutOfBounds (max s.index.toNat 4096) .write) s (exec (.ldBVx x) s))

/-- R164: FX55 stores V[0] to V[X] at I to I + X and nothing else, and adds X + 1 to I, or takes MemoryOutOfBounds
when I + X is above 4095. -/
def Obligations.BlockStored : Prop :=
  ∀ (s : State) (x : Reg),
    (s.Canonical → s.index.toNat + x.val ≤ 4095 → ∃ t, exec (.ldMemVx x) s = .next t ∧
      (∀ j : Reg, j.val ≤ x.val → t.byte (s.index.toNat + j.val) = s.reg j) ∧
      (∀ a, a < s.index.toNat ∨ s.index.toNat + x.val < a → t.byte a = s.byte a) ∧
      t.index.toNat = (s.index.toNat + x.val + 1) % 65536 ∧ PcMoves 2 s t ∧ Frame [.mem, .index, .pc] s t) ∧
    (4095 < s.index.toNat + x.val →
      TakesFault (.memoryOutOfBounds (max s.index.toNat 4096) .write) s (exec (.ldMemVx x) s))

/-- R165: FX65 loads V[0] to V[X] from I to I + X, leaves the higher registers, and adds X + 1 to I, or takes
MemoryOutOfBounds when I + X is above 4095. -/
def Obligations.BlockLoaded : Prop :=
  ∀ (s : State) (x : Reg),
    (s.index.toNat + x.val ≤ 4095 → ∃ t, exec (.ldVxMem x) s = .next t ∧
      (∀ j : Reg, t.reg j = if j.val ≤ x.val then s.byte (s.index.toNat + j.val) else s.reg j) ∧
      t.index.toNat = (s.index.toNat + x.val + 1) % 65536 ∧ PcMoves 2 s t ∧ Frame [.regs, .index, .pc] s t) ∧
    (4095 < s.index.toNat + x.val →
      TakesFault (.memoryOutOfBounds (max s.index.toNat 4096) .read) s (exec (.ldVxMem x) s))

/-- `95_test_vectors.md` S6: what FX55 stores, FX65 reloads exactly, from any state with those bytes of memory and I
set back. -/
def Obligations.StoreThenLoadReturnsRegisters : Prop :=
  ∀ (s t u : State) (x : Reg), s.Canonical → s.index.toNat + x.val ≤ 4095 → exec (.ldMemVx x) s = .next t →
    (∀ a, u.byte a = t.byte a) → u.index = s.index → ∃ w, exec (.ldVxMem x) u = .next w ∧
      (∀ j : Reg, j.val ≤ x.val → w.reg j = s.reg j) ∧ w.index = t.index

/-- `20_memory.md` section 6 (R69): a fetch sees the bytes that the FX55 just before it stored. -/
def Obligations.FetchSeesStoredBlock : Prop :=
  ∀ (s t : State) (x j k : Reg), s.Canonical → s.index.toNat + x.val ≤ 4095 → exec (.ldMemVx x) s = .next t →
    k.val = j.val + 1 → k.val ≤ x.val → t.pc.toNat = s.index.toNat + j.val →
    fetch t = .ok (wordOfBytes (s.reg j) (s.reg k))

/-! ## Display -/

/-- R170: 00E0 clears every pixel and sets RedrawFlag. -/
def Obligations.ClearScreen : Prop :=
  ∀ s : State, ∃ t, exec .cls s = .next t ∧ (∀ x y, t.pixel x y = false) ∧ t.redraw = true ∧ PcMoves 2 s t ∧
    Frame [.fb, .redraw, .pc] s t

/-- `44_display.md` sections 1 and 2 (the spec's decisions D6 to D9, logs 9 to 11): DXYN toggles exactly the pixels of
the raster that lie on a sprite bit of 1, V[15] is 1 exactly when one of them was set, RedrawFlag is set; when the N
bytes do not fit it takes MemoryOutOfBounds. -/
def Obligations.SpriteIsXoredOntoScreen : Prop :=
  ∀ (s : State) (x y : Reg) (n : Fin 16),
    (n.val = 0 ∨ s.index.toNat + n.val ≤ 4096 → ∃ t, exec (.drwVxVyN x y n) s = .next t ∧
      (∀ cx cy, cx < 64 → cy < 32 → t.pixel cx cy =
        (s.pixel cx cy != spritePixel s n.val (s.reg x).toNat (s.reg y).toNat cx cy)) ∧
      (∃ f : Byte, SetsReg flagReg f s t ∧ (f = 0 ∨ f = 1) ∧ (f = 1 ↔ ∃ cx cy, cx < 64 ∧ cy < 32 ∧
        s.pixel cx cy = true ∧ spritePixel s n.val (s.reg x).toNat (s.reg y).toNat cx cy = true)) ∧
      t.redraw = true ∧ PcMoves 2 s t ∧ Frame [.regs, .fb, .redraw, .pc] s t) ∧
    (n.val ≠ 0 → 4096 < s.index.toNat + n.val →
      TakesFault (.memoryOutOfBounds (max s.index.toNat 4096) .read) s (exec (.drwVxVyN x y n) s))

/-- `95_test_vectors.md` S7 and `44_display.md` sections 1 and 2: drawing the same sprite twice at the same place (not
named by V[15]) restores the framebuffer; the second draw reports a collision exactly when a pixel it toggles was set
before it. Which pixels those are rests on the spec's decisions D6 (no reduction of the origin, log 9) and D7 (bit 7
leftmost, rows downward: from general knowledge, PRESUMED, log 11), and the premise that the sprite fits on D8 (log 10). -/
def Obligations.DrawTwiceRestores : Prop :=
  ∀ (s : State) (x y : Reg) (n : Fin 16), x ≠ flagReg → y ≠ flagReg →
    (n.val = 0 ∨ s.index.toNat + n.val ≤ 4096) → ∃ t u, exec (.drwVxVyN x y n) s = .next t ∧
      exec (.drwVxVyN x y n) t = .next u ∧ u.fb = s.fb ∧
      (u.reg flagReg = 1 ↔ ∃ cx cy, cx < 64 ∧ cy < 32 ∧ t.pixel cx cy = true ∧
        spritePixel s n.val (s.reg x).toNat (s.reg y).toNat cx cy = true)

/-- `10_state.md` section 7 (the spec's decision D23, log 12): the host's snapshot is the 2048 pixels with cell (x, y)
at index x + 64 * y. -/
def Obligations.SnapshotOrder : Prop :=
  ∀ s : State, s.snapshot.length = 2048 ∧
    ∀ x y, x < 64 → y < 32 → s.snapshot[x + 64 * y]? = some (s.pixel x y)

/-! ## Keypad and timers -/

/-- `45_keypad_timers.md` section 1 (the spec's decision D11, log 10): EX9E and EXA1 skip on the state of the key that
the whole of V[X] names, and take KeyIndexOutOfRange when it is above 15. -/
def Obligations.KeySkips : Prop :=
  ∀ (s : State) (x : Reg),
    (∀ k : Fin 16, (s.reg x).toNat = k.val →
      (∃ t, exec (.skpVx x) s = .next t ∧ PcMoves (if s.keys[k] = true then 4 else 2) s t ∧ Frame [.pc] s t) ∧
      (∃ t, exec (.sknpVx x) s = .next t ∧ PcMoves (if s.keys[k] = false then 4 else 2) s t ∧ Frame [.pc] s t)) ∧
    (15 < (s.reg x).toNat → TakesFault (.keyIndexOutOfRange (s.reg x)) s (exec (.skpVx x) s) ∧
      TakesFault (.keyIndexOutOfRange (s.reg x)) s (exec (.sknpVx x) s))

/-- `45_keypad_timers.md` section 1, FX0A (the spec's decision D10): it changes nothing at all while no key is
pressed, and else loads V[X] with the index of a pressed key (which one is open, KEY_PICK; the model's count of free
values is the one other thing that changes, log 4). -/
def Obligations.WaitForKey : Prop :=
  ∀ (s : State) (x : Reg),
    ((∀ k : Fin 16, s.keys[k] = false) → exec (.ldVxK x) s = .next s) ∧
    ((∃ k : Fin 16, s.keys[k] = true) → ∃ t, exec (.ldVxK x) s = .next t ∧
      (∃ k : Fin 16, s.keys[k] = true ∧ SetsReg x (BitVec.ofNat 8 k.val) s t) ∧ PcMoves 2 s t ∧
      Frame [.regs, .pc, .draws] s t)

/-- R183, R184, R185: FX07 reads DT, FX15 writes DT, FX18 writes ST. -/
def Obligations.TimerMoves : Prop :=
  ∀ (s : State) (x : Reg),
    (∃ t, exec (.ldVxDt x) s = .next t ∧ SetsReg x s.dt s t ∧ PcMoves 2 s t ∧ Frame [.regs, .pc] s t) ∧
    (∃ t, exec (.ldDtVx x) s = .next t ∧ t.dt = s.reg x ∧ PcMoves 2 s t ∧ Frame [.dt, .pc] s t) ∧
    (∃ t, exec (.ldStVx x) s = .next t ∧ t.st = s.reg x ∧ PcMoves 2 s t ∧ Frame [.st, .pc] s t)

/-! ## The host's events -/

/-- R213: a TimerTick lowers each nonzero counter by 1, leaves a zero one, and touches nothing else; when Run is
Faulted it does nothing. -/
def Obligations.TimerTickCountsDown : Prop :=
  ∀ s : State,
    (s.run = .running → ∃ t, event .timerTick s = .next t ∧ t.dt.toNat = s.dt.toNat - 1 ∧
      t.st.toNat = s.st.toNat - 1 ∧ Frame [.dt, .st] s t) ∧
    (∀ c, s.run = .faulted c → event .timerTick s = .next s)

/-- `60_exceptions.md` section 9 (the spec's decisions D15, D25, log 15): SetKeys replaces the sixteen keys, RedrawAck
clears RedrawFlag, and neither touches anything else. -/
def Obligations.SetKeysAndRedrawAck : Prop :=
  ∀ (s : State) (ks : Vector Bool 16), s.run = .running →
    (∃ t, event (.setKeys ks) s = .next t ∧ (∀ k : Fin 16, t.keys[k] = ks[k]) ∧ Frame [.keys] s t) ∧
    (∃ t, event .redrawAck s = .next t ∧ t.redraw = false ∧ Frame [.redraw] s t)

/-- `70_reset_and_hazards.md` section 1 (the spec's decision D19, logs 8 and 15): LoadROM of at most 3232 bytes copies
them to 0x200 on and changes nothing else; more are refused with RomTooLarge and the state stays. -/
def Obligations.LoadRomCopiesOrRefuses : Prop :=
  ∀ (s : State) (bs : List Byte), s.run = .running →
    (s.Canonical → bs.length ≤ 3232 → ∃ t, event (.loadRom bs) s = .next t ∧
      (∀ k, k < bs.length → t.byte (0x200 + k) = bs.getD k 0) ∧
      (∀ a, a < 0x200 ∨ 0x200 + bs.length ≤ a → t.byte a = s.byte a) ∧ Frame [.mem] s t) ∧
    (3232 < bs.length → event (.loadRom bs) s = .fault (.romTooLarge bs.length) ∧ afterEvent (.loadRom bs) s = s)

/-! ## Whole-machine rules -/

/-- `10_state.md` section 1, column "written by": each instruction changes only the parts of the state that the spec
lets it write. -/
def Obligations.InstructionsWriteOnlyTheirParts : Prop :=
  ∀ (i : Instr) (s t : State), exec i s = .next t → Frame (mayChange i) s t

/-- `10_state.md` section 3: an instruction changes no V register but its destination, and V[15] only as one of the
seven flag writers. -/
def Obligations.InstructionsWriteOnlyTheirRegisters : Prop :=
  ∀ (i : Instr) (s t : State) (j : Reg), exec i s = .next t → mayWriteReg i j = false → t.reg j = s.reg j

/-- `20_memory.md` section 4: a byte of memory changes only under FX33 within I to I + 2 or FX55 within I to I + X. -/
def Obligations.StoresStayInTheirSpan : Prop :=
  ∀ (i : Instr) (s t : State) (a : Nat), s.Canonical → exec i s = .next t → t.byte a ≠ s.byte a →
    a ≤ 4095 ∧ ((∃ x, i = .ldBVx x ∧ s.index.toNat ≤ a ∧ a ≤ s.index.toNat + 2) ∨
      (∃ x, i = .ldMemVx x ∧ s.index.toNat ≤ a ∧ a ≤ s.index.toNat + x.val))

/-- `30_encoding.md` section 6: every instruction that completes moves pc by exactly 2, except the jumps, call,
return, skips and FX0A. -/
def Obligations.OtherInstructionsAdvanceByTwo : Prop :=
  ∀ (i : Instr) (s t : State), s.run = .running → exec i s = .next t → t.run = .running → steersPc i = false →
    PcMoves 2 s t

/-- `60_exceptions.md` section 8: a Step changes DT only through FX15 and ST only through FX18. -/
def Obligations.StepChangesTimersOnlyByStores : Prop :=
  ∀ s t : State, step s = .next t →
    (t.dt ≠ s.dt → ∃ x, nextInstr s = .ok (.ldDtVx x)) ∧ (t.st ≠ s.st → ∃ x, nextInstr s = .ok (.ldStVx x))

/-- `10_state.md` section 7: no Step clears RedrawFlag, and one changes it only when the instruction it fetched is a
00E0 or a DXYN. -/
def Obligations.StepOnlySetsRedrawFlag : Prop :=
  ∀ s t : State, step s = .next t →
    (s.redraw = true → t.redraw = true) ∧
    (t.redraw ≠ s.redraw → nextInstr s = .ok .cls ∨ ∃ x y n, nextInstr s = .ok (.drwVxVyN x y n))

/-- `10_state.md` sections 6 and 7: no instruction reads ST or RedrawFlag; changing them beforehand changes nothing
else of the outcome. -/
def Obligations.NoInstructionReadsSoundOrRedraw : Prop :=
  ∀ (i : Instr) (s : State) (b : Byte) (r : Bool), ∃ t u, exec i s = .next t ∧
    exec i { s with st := b, redraw := r } = .next u ∧ Frame [.st, .redraw] t u

/-! ## Invariants -/

/-- Every Step keeps memory canonical. The bound 4096 on addresses is `20_memory.md` section 1; that memory is a list
in rising order without the bytes an unlisted address reads as is the model's own form (log 13, DESIGN CHOICE). -/
def Obligations.StepKeepsMemoryCanonical : Prop :=
  ∀ s t : State, s.Canonical → step s = .next t → t.Canonical

/-- `10_state.md` section 5: from a state whose live stack entries are fetched addresses, a Step leaves pc at most
0x10FE and the entries so. -/
def Obligations.StepKeepsPcInRange : Prop :=
  ∀ s t : State, s.PcInRange → step s = .next t → t.PcInRange

/-- Both invariants hold after every session of events (`00_scope.md` section 4), from every state in which they hold:
the canonical form of memory, which is the model's own form (log 13, DESIGN CHOICE; from `20_memory.md` section 1 only
the bound 4096), and the range of pc and the live stack entries (`10_state.md` section 5). -/
def Obligations.SessionsKeepInvariants : Prop :=
  ∀ (es : List Event) (s : State), s.Canonical → s.PcInRange → (session es s).Canonical ∧ (session es s).PcInRange

/-- Both invariants hold at reset, for every FONTSET: memory in the model's own canonical form (log 13, DESIGN
CHOICE), and pc and the live stack entries in range as the values of `10_state.md` section 13 are. -/
def Obligations.ResetMeetsInvariants : Prop :=
  (∀ font : Fontset, (State.resetWith font).Canonical ∧ (State.resetWith font).PcInRange) ∧
  State.reset.Canonical ∧ State.reset.PcInRange

/-- FONTSET is one value for a machine: no session changes it, Boot included. (The field that holds it is the model's
form of the parameter of `00_scope.md` R5, log 2.) -/
def Obligations.SessionsKeepFontset : Prop :=
  ∀ (es : List Event) (s : State), (session es s).fontset = s.fontset
end

