-- ==== Sys2Proof/Laws/Decode.lean ====
section
/-! SUPPORT. The opcode map has no overlaps, so a word that a row selects is decoded by that row; and the fields and
masked parts of the words that the formats build. -/

namespace Sys2Proof

/-- No two rows can select one word: where both masks look, the matches differ (R95). -/
theorem opcodeRows_disjoint :
    opcodeRows.Pairwise fun r r' => (r.value ^^^ r'.value) &&& (r.mask &&& r'.mask) ≠ 0 := by
  decide

/-- The same of the looser pairs of R98. -/
theorem opcodeRows_loose_disjoint :
    opcodeRows.Pairwise fun r r' => (r.looseValue ^^^ r'.looseValue) &&& (r.looseMask &&& r'.looseMask) ≠ 0 := by
  decide

/-- Rows that are told apart by a bit both masks look at do not select one word. -/
theorem not_both_hit {op u m u' m' : Word} (h : (u ^^^ u') &&& (m &&& m') ≠ 0) (h1 : op &&& m = u)
    (h2 : op &&& m' = u') : False := by
  refine h (BitVec.eq_of_getLsbD_eq fun i _ => ?_)
  rw [← h1, ← h2, show (0 : Word).getLsbD i = false from BitVec.getLsbD_zero]
  simp only [BitVec.getLsbD_and, BitVec.getLsbD_xor]
  cases op.getLsbD i <;> cases m.getLsbD i <;> cases m'.getLsbD i <;> rfl

/-- In a list of rows without overlaps the row found is the row that selects the word. -/
theorem find_of_hits {rows : List OpcodeRow} {r : OpcodeRow} {op : Word}
    (hd : rows.Pairwise fun r r' => (r.value ^^^ r'.value) &&& (r.mask &&& r'.mask) ≠ 0) (hr : r ∈ rows)
    (h : op &&& r.mask = r.value) : rows.find? (fun r => r.hits false op) = some r := by
  induction rows with
  | nil => cases hr
  | cons a rest ih =>
    obtain ⟨ha, hrest⟩ := List.pairwise_cons.1 hd
    rcases List.mem_cons.1 hr with rfl | hin
    · exact List.find?_cons_of_pos (by simp [OpcodeRow.hits, h])
    · rw [List.find?_cons_of_neg]
      · exact ih hrest hin
      · simp only [OpcodeRow.hits, Bool.false_eq_true, if_false, beq_iff_eq]
        exact fun h1 => not_both_hit (ha r hin) h1 h

/-- A word that a row of the table selects decodes by that row. -/
theorem decode_of_hits {r : OpcodeRow} {op : Word} (hr : r ∈ opcodeRows) (h : op &&& r.mask = r.value) :
    decode op = .ok (r.build op) := by
  simp only [decode, decodeLoose, decodeWith, find_of_hits opcodeRows_disjoint hr h]

/-- A word that no row selects is rejected by name, with the word. -/
theorem decode_of_no_row {op : Word} (h : ∀ r ∈ opcodeRows, op &&& r.mask ≠ r.value) :
    decode op = .error (.unknownOpcode op) := by
  have hn : opcodeRows.find? (fun r => r.hits false op) = none := by
    rw [List.find?_eq_none]
    intro r hr
    simpa [OpcodeRow.hits] using h r hr
  simp only [decode, decodeLoose, decodeWith, hn]

/-- A decoded word is selected by a row of the table, which built the instruction. -/
theorem row_of_decode {op : Word} {i : Instr} (h : decode op = .ok i) :
    ∃ r ∈ opcodeRows, op &&& r.mask = r.value ∧ r.build op = i := by
  simp only [decode, decodeLoose, decodeWith] at h
  split at h
  · next r hr =>
    have hh := List.find?_some hr
    simp only [OpcodeRow.hits, Bool.false_eq_true, if_false, beq_iff_eq] at hh
    exact ⟨r, List.mem_of_find?_eq_some hr, hh, by cases h; rfl⟩
  · cases h

/-! ### The fields of built words -/

/-- A nibble read from a word appended to 12 bits. -/
@[simp] theorem fieldNNN_formatNNN (t : BitVec 4) (nnn : Imm12) : fieldNNN (formatNNN t nnn) = nnn := by
  rw [fieldNNN, formatNNN, BitVec.extractLsb'_append_eq_of_add_le (by decide)]
  exact BitVec.extractLsb'_eq_self

/-- NN of format XNN. -/
@[simp] theorem fieldNN_formatXNN (t : BitVec 4) (x : Reg) (nn : Byte) : fieldNN (formatXNN t x nn) = nn := by
  rw [fieldNN, formatXNN, BitVec.extractLsb'_append_eq_of_add_le (by decide)]
  exact BitVec.extractLsb'_eq_self

/-- X of format XNN. -/
@[simp] theorem fieldX_formatXNN (t : BitVec 4) (x : Reg) (nn : Byte) : fieldX (formatXNN t x nn) = x := by
  rw [fieldX, formatXNN, BitVec.extractLsb'_append_eq_of_le (by decide),
    BitVec.extractLsb'_append_eq_of_add_le (by decide)]
  exact congrArg BitVec.toFin BitVec.extractLsb'_eq_self

/-- X of format XYN. -/
@[simp] theorem fieldX_formatXYN (t : BitVec 4) (x y n : Fin 16) : fieldX (formatXYN t x y n) = x := by
  rw [fieldX, formatXYN, BitVec.extractLsb'_append_eq_of_le (by decide),
    BitVec.extractLsb'_append_eq_of_add_le (by decide)]
  exact congrArg BitVec.toFin BitVec.extractLsb'_eq_self

/-- Y of format XYN. -/
@[simp] theorem fieldY_formatXYN (t : BitVec 4) (x y n : Fin 16) : fieldY (formatXYN t x y n) = y := by
  rw [fieldY, formatXYN, BitVec.extractLsb'_append_eq_of_add_le (by decide),
    BitVec.extractLsb'_append_eq_of_le (by decide)]
  exact congrArg BitVec.toFin BitVec.extractLsb'_eq_self

/-- N of format XYN. -/
@[simp] theorem fieldN_formatXYN (t : BitVec 4) (x y n : Fin 16) : fieldN (formatXYN t x y n) = n := by
  rw [fieldN, formatXYN, BitVec.extractLsb'_append_eq_of_add_le (by decide),
    BitVec.extractLsb'_append_eq_of_add_le (by decide)]
  exact congrArg BitVec.toFin BitVec.extractLsb'_eq_self

/-! ### The literal digits of built words -/

/-- The top nibble of format NNN. -/
theorem formatNNN_top (t : BitVec 4) (nnn : Imm12) : formatNNN t nnn &&& 0xF000 = formatNNN t 0 := by
  have h : (0xF000 : Word) = (0xF : BitVec 4) ++ (0 : BitVec 12) := by decide
  rw [formatNNN, formatNNN, h, BitVec.and_append]
  congr 1
  · revert t; decide
  · exact BitVec.and_zero

/-- The top nibble of format XNN. -/
theorem formatXNN_top (t : BitVec 4) (x : Reg) (nn : Byte) : formatXNN t x nn &&& 0xF000 = formatXNN t 0 0 := by
  have h : (0xF000 : Word) = ((0xF : BitVec 4) ++ (0 : BitVec 4)) ++ (0 : BitVec 8) := by decide
  rw [formatXNN, formatXNN, h, BitVec.and_append, BitVec.and_append]
  congr 1
  · congr 1
    · revert t; decide
    · exact BitVec.and_zero
  · exact BitVec.and_zero

/-- The literal digits of format X: the top nibble and the low byte. -/
theorem formatXNN_ends (t : BitVec 4) (x : Reg) (nn : Byte) : formatXNN t x nn &&& 0xF0FF = formatXNN t 0 nn := by
  have h : (0xF0FF : Word) = ((0xF : BitVec 4) ++ (0 : BitVec 4)) ++ (0xFF : BitVec 8) := by decide
  rw [formatXNN, formatXNN, h, BitVec.and_append, BitVec.and_append]
  congr 1
  · congr 1
    · revert t; decide
    · exact BitVec.and_zero
  · exact BitVec.and_allOnes

/-- The literal digits of format XY: the top and the bottom nibble. -/
theorem formatXYN_ends (t : BitVec 4) (x y n : Fin 16) : formatXYN t x y n &&& 0xF00F = formatXYN t 0 0 n := by
  have h : (0xF00F : Word) = ((0xF : BitVec 4) ++ (0 : BitVec 4)) ++ ((0 : BitVec 4) ++ (0xF : BitVec 4)) := by decide
  rw [formatXYN, formatXYN, h, BitVec.and_append, BitVec.and_append, BitVec.and_append]
  congr 1
  · congr 1
    · revert t; decide
    · exact BitVec.and_zero
  · congr 1
    · exact BitVec.and_zero
    · exact BitVec.and_allOnes

/-- The top nibble of format XYN. -/
theorem formatXYN_top (t : BitVec 4) (x y n : Fin 16) : formatXYN t x y n &&& 0xF000 = formatXYN t 0 0 0 := by
  have h : (0xF000 : Word) = ((0xF : BitVec 4) ++ (0 : BitVec 4)) ++ ((0 : BitVec 4) ++ (0 : BitVec 4)) := by decide
  rw [formatXYN, formatXYN, h, BitVec.and_append, BitVec.and_append, BitVec.and_append]
  congr 1
  · congr 1
    · revert t; decide
    · exact BitVec.and_zero
  · congr 1 <;> exact BitVec.and_zero

/-! ### Bytes -/

/-- The two bytes of a word give the word back. -/
theorem wordOfBytes_bytes (op : Word) : wordOfBytes (op.extractLsb' 8 8) (op.extractLsb' 0 8) = op := by
  refine BitVec.eq_of_getLsbD_eq fun i hi => ?_
  rw [wordOfBytes, BitVec.getLsbD_append, BitVec.getLsbD_extractLsb', BitVec.getLsbD_extractLsb']
  by_cases h : i < 8
  · simp [h]
  · simp [h, show i - 8 < 8 by omega, show 8 + (i - 8) = i by omega]

/-- Decoding the bytes of a word is decoding the word; the bytes after it are given back. -/
theorem decodeBytes_bytesOfWord (op : Word) (rest : List Byte) :
    decodeBytes (bytesOfWord op ++ rest) = (decode op).map fun i => (i, rest) := by
  simp only [bytesOfWord, List.cons_append, List.nil_append, decodeBytes, wordOfBytes_bytes]

end Sys2Proof
end

