-- ==== Sys2Proof/Laws/Memory.lean ====
section
/-! SUPPORT. Memory: reading after writing, and that every operation keeps the canonical form. -/

namespace Sys2Proof.Machine

/-- Inside the fontset an unlisted address reads as the FONTSET's byte. -/
theorem resetByte_font {font : Fontset} {a : Nat} (h : a < 80) : resetByte font a = font[a]'h := dif_pos h

/-- Above the fontset an unlisted address reads as 0. -/
theorem resetByte_above {font : Fontset} {a : Nat} (h : 80 ≤ a) : resetByte font a = 0 := dif_neg (Nat.not_lt.2 h)

/-- What the canonical form says of a list with a first cell. -/
theorem Memory.wfFrom_cons {font : Fontset} {lo k : Nat} {b : Byte} {rest : Memory} :
    Memory.wfFrom font lo ((k, b) :: rest) = true ↔
      lo ≤ k ∧ k < 4096 ∧ b ≠ resetByte font k ∧ Memory.wfFrom font (k + 1) rest = true := by
  simp [Memory.wfFrom, and_assoc]

/-- A canonical list stays one when the bound on its addresses is lowered. -/
theorem Memory.wfFrom_mono {font : Fontset} {lo lo' : Nat} {m : Memory} (hle : lo' ≤ lo) (h : Memory.wfFrom font lo m = true) :
    Memory.wfFrom font lo' m = true := by
  cases m with
  | nil => rfl
  | cons c rest =>
    obtain ⟨h1, h2⟩ := Memory.wfFrom_cons.1 h
    exact Memory.wfFrom_cons.2 ⟨hle.trans h1, h2⟩

/-- An address below all listed ones reads as after Boot. -/
theorem Memory.read_below {font : Fontset} {lo a : Nat} {m : Memory} (h : Memory.wfFrom font lo m = true) (ha : a < lo) :
    m.read font a = resetByte font a := by
  induction m generalizing lo with
  | nil => rfl
  | cons c rest ih =>
    obtain ⟨h1, -, -, h4⟩ := Memory.wfFrom_cons.1 h
    have hne : a ≠ c.1 := by omega
    simpa [Memory.read, hne] using ih h4 (by omega)

/-- A byte put in front of a canonical list of higher addresses. -/
theorem Memory.read_cons {font : Fontset} {a j : Nat} {b : Byte} {rest : Memory} (h : Memory.wfFrom font (a + 1) rest = true) :
    (Memory.cons font a b rest).read font j = if j = a then b else rest.read font j := by
  unfold Memory.cons
  split
  · next hb =>
    split
    · next hj => rw [hj, Memory.read_below h (Nat.lt_succ_self a), hb]
    · rfl
  · rfl

/-- Putting a byte in front keeps the canonical form. -/
theorem Memory.wfFrom_putFirst {font : Fontset} {lo a : Nat} {b : Byte} {rest : Memory} (hlo : lo ≤ a) (ha : a < 4096)
    (h : Memory.wfFrom font (a + 1) rest = true) : Memory.wfFrom font lo (Memory.cons font a b rest) = true := by
  unfold Memory.cons
  split
  · exact Memory.wfFrom_mono (by omega) h
  · next hb => exact Memory.wfFrom_cons.2 ⟨hlo, ha, hb, h⟩

/-- Read after write, in a canonical memory: the byte written at its address, every other byte as before. -/
theorem Memory.read_write_from {font : Fontset} {lo a j : Nat} {b : Byte} {m : Memory} (h : Memory.wfFrom font lo m = true) :
    (m.write font a b).read font j = if j = a then b else m.read font j := by
  induction m generalizing lo with
  | nil => exact Memory.read_cons rfl
  | cons c rest ih =>
    obtain ⟨k, d⟩ := c
    obtain ⟨h1, h2, h3, h4⟩ := Memory.wfFrom_cons.1 h
    unfold Memory.write
    split
    · next hlt => exact Memory.read_cons (Memory.wfFrom_cons.2 ⟨hlt, h2, h3, h4⟩)
    · split
      · next heq =>
        subst heq
        rw [Memory.read_cons h4]
        by_cases hj : j = a <;> simp [Memory.read, hj]
      · next hne =>
        by_cases hj : j = k
        · have : j ≠ a := fun e => hne (e.symm.trans hj)
          simp [Memory.read, hj, hj ▸ this]
        · simp [Memory.read, hj, ih h4]

/-- A write keeps the canonical form. -/
theorem Memory.wfFrom_write {font : Fontset} {lo a : Nat} {b : Byte} {m : Memory} (h : Memory.wfFrom font lo m = true) (hlo : lo ≤ a)
    (ha : a < 4096) : Memory.wfFrom font lo (m.write font a b) = true := by
  induction m generalizing lo with
  | nil => exact Memory.wfFrom_putFirst hlo ha rfl
  | cons c rest ih =>
    obtain ⟨k, d⟩ := c
    obtain ⟨h1, h2, h3, h4⟩ := Memory.wfFrom_cons.1 h
    unfold Memory.write
    split
    · next hlt => exact Memory.wfFrom_putFirst hlo ha (Memory.wfFrom_cons.2 ⟨hlt, h2, h3, h4⟩)
    · split
      · next heq => exact Memory.wfFrom_putFirst hlo ha (heq ▸ h4)
      · next hne => exact Memory.wfFrom_cons.2 ⟨h1, h2, h3, ih h4 (by omega)⟩

/-- Read after write. -/
theorem Memory.read_write {font : Fontset} {a j : Nat} {b : Byte} {m : Memory} (h : m.wf font = true) :
    (m.write font a b).read font j = if j = a then b else m.read font j :=
  Memory.read_write_from h

/-- A write keeps the canonical form. -/
theorem Memory.wf_write {font : Fontset} {a : Nat} {b : Byte} {m : Memory} (h : m.wf font = true) (ha : a < 4096) : (m.write font a b).wf font = true :=
  Memory.wfFrom_write h (Nat.zero_le a) ha

/-- A store of bytes inside memory keeps the canonical form. -/
theorem Memory.wf_writeBytes {font : Fontset} {a : Nat} {bs : List Byte} {m : Memory} (h : m.wf font = true) (ha : a + bs.length ≤ 4096) :
    (m.writeBytes font a bs).wf font = true := by
  induction bs generalizing a m with
  | nil => exact h
  | cons b bs ih =>
    simp only [List.length_cons] at ha
    exact ih (Memory.wf_write h (by omega)) (by omega)

/-- Read after a store of bytes inside memory: the bytes stored at their addresses, every other byte as before. -/
theorem Memory.read_writeBytes {font : Fontset} {a j : Nat} {bs : List Byte} {m : Memory} (h : m.wf font = true) (ha : a + bs.length ≤ 4096) :
    (m.writeBytes font a bs).read font j = if a ≤ j ∧ j < a + bs.length then bs.getD (j - a) 0 else m.read font j := by
  induction bs generalizing a m with
  | nil => rw [if_neg (by simp)]; rfl
  | cons b bs ih =>
    simp only [List.length_cons] at ha
    rw [Memory.writeBytes, ih (Memory.wf_write h (by omega)) (by omega), Memory.read_write h]
    rcases Nat.lt_trichotomy j a with hj | rfl | hj
    · have h1 : ¬ (a + 1 ≤ j ∧ j < a + 1 + bs.length) := by omega
      have h2 : ¬ (a ≤ j ∧ j < a + (b :: bs).length) := by omega
      rw [if_neg h1, if_neg h2, if_neg (Nat.ne_of_lt hj)]
    · simp
    · obtain ⟨d, rfl⟩ := Nat.exists_eq_add_of_lt hj
      have h1 : a + d + 1 - (a + 1) = d := by omega
      have h2 : a + d + 1 - a = d + 1 := by omega
      have h3 : (a + 1 ≤ a + d + 1 ∧ a + d + 1 < a + 1 + bs.length) ↔
          (a ≤ a + d + 1 ∧ a + d + 1 < a + (b :: bs).length) := by
        simp only [List.length_cons]; omega
      rw [h1, h2]
      by_cases hin : a ≤ a + d + 1 ∧ a + d + 1 < a + (b :: bs).length
      · rw [if_pos hin, if_pos (h3.2 hin), List.getD_cons_succ]
      · rw [if_neg hin, if_neg (fun h => hin (h3.1 h)), if_neg (by omega)]

/-- The bytes read from a span, one by one. -/
theorem Memory.getD_readBytes {font : Fontset} {m : Memory} {a n k : Nat} (hk : k < n) (d : Byte) :
    (m.readBytes font a n).getD k d = m.read font (a + k) := by
  induction n generalizing a k with
  | zero => omega
  | succ n ih =>
    cases k with
    | zero => rfl
    | succ k =>
      rw [Memory.readBytes, List.getD_cons_succ, ih (by omega)]
      congr 1; omega

/-- A span read has the number of bytes asked for. -/
@[simp] theorem Memory.length_readBytes (m : Memory) (font : Fontset) (a n : Nat) : (m.readBytes font a n).length = n := by
  induction n generalizing a with
  | zero => rfl
  | succ n ih => simp [Memory.readBytes, ih]

/-- A span fits exactly when it is empty or ends inside memory. -/
theorem spanFits_iff {base n : Nat} : spanFits base n = true ↔ n = 0 ∨ base + n ≤ 4096 := by
  simp [spanFits]

end Sys2Proof.Machine
end

