-- ==== Sys2Proof/Laws/State.lean ====
section
/-! SUPPORT. What each update of the state does to each field: one lemma per field per update, true by `rfl`, so that no
proof unfolds a record update. Then the registers, bytes and pixels read after an update of their own field. -/

namespace Sys2Proof.Machine

/-! ### setReg -/

@[simp] theorem State.setReg_v (s : State) (x : Reg) (b : Byte) : (s.setReg x b).v = s.v.set x.val b x.isLt := rfl
@[simp] theorem State.setReg_index (s : State) (x : Reg) (b : Byte) : (s.setReg x b).index = s.index := rfl
@[simp] theorem State.setReg_pc (s : State) (x : Reg) (b : Byte) : (s.setReg x b).pc = s.pc := rfl
@[simp] theorem State.setReg_stack (s : State) (x : Reg) (b : Byte) : (s.setReg x b).stack = s.stack := rfl
@[simp] theorem State.setReg_sp (s : State) (x : Reg) (b : Byte) : (s.setReg x b).sp = s.sp := rfl
@[simp] theorem State.setReg_dt (s : State) (x : Reg) (b : Byte) : (s.setReg x b).dt = s.dt := rfl
@[simp] theorem State.setReg_st (s : State) (x : Reg) (b : Byte) : (s.setReg x b).st = s.st := rfl
@[simp] theorem State.setReg_fb (s : State) (x : Reg) (b : Byte) : (s.setReg x b).fb = s.fb := rfl
@[simp] theorem State.setReg_redraw (s : State) (x : Reg) (b : Byte) : (s.setReg x b).redraw = s.redraw := rfl
@[simp] theorem State.setReg_keys (s : State) (x : Reg) (b : Byte) : (s.setReg x b).keys = s.keys := rfl
@[simp] theorem State.setReg_mem (s : State) (x : Reg) (b : Byte) : (s.setReg x b).mem = s.mem := rfl
@[simp] theorem State.setReg_run (s : State) (x : Reg) (b : Byte) : (s.setReg x b).run = s.run := rfl
@[simp] theorem State.setReg_fontset (s : State) (x : Reg) (b : Byte) : (s.setReg x b).fontset = s.fontset := rfl
@[simp] theorem State.setReg_draws (s : State) (x : Reg) (b : Byte) : (s.setReg x b).draws = s.draws := rfl
@[simp] theorem State.setReg_byte (s : State) (x : Reg) (b : Byte) (j : Nat) : (s.setReg x b).byte j = s.byte j := rfl
@[simp] theorem State.setReg_pixel (s : State) (x : Reg) (b : Byte) (j k : Nat) : (s.setReg x b).pixel j k = s.pixel j k := rfl

/-! ### setRegs -/

@[simp] theorem State.setRegs_v (s : State) (w : Vector Byte 16) : (s.setRegs w).v = w := rfl
@[simp] theorem State.setRegs_index (s : State) (w : Vector Byte 16) : (s.setRegs w).index = s.index := rfl
@[simp] theorem State.setRegs_pc (s : State) (w : Vector Byte 16) : (s.setRegs w).pc = s.pc := rfl
@[simp] theorem State.setRegs_stack (s : State) (w : Vector Byte 16) : (s.setRegs w).stack = s.stack := rfl
@[simp] theorem State.setRegs_sp (s : State) (w : Vector Byte 16) : (s.setRegs w).sp = s.sp := rfl
@[simp] theorem State.setRegs_dt (s : State) (w : Vector Byte 16) : (s.setRegs w).dt = s.dt := rfl
@[simp] theorem State.setRegs_st (s : State) (w : Vector Byte 16) : (s.setRegs w).st = s.st := rfl
@[simp] theorem State.setRegs_fb (s : State) (w : Vector Byte 16) : (s.setRegs w).fb = s.fb := rfl
@[simp] theorem State.setRegs_redraw (s : State) (w : Vector Byte 16) : (s.setRegs w).redraw = s.redraw := rfl
@[simp] theorem State.setRegs_keys (s : State) (w : Vector Byte 16) : (s.setRegs w).keys = s.keys := rfl
@[simp] theorem State.setRegs_mem (s : State) (w : Vector Byte 16) : (s.setRegs w).mem = s.mem := rfl
@[simp] theorem State.setRegs_run (s : State) (w : Vector Byte 16) : (s.setRegs w).run = s.run := rfl
@[simp] theorem State.setRegs_fontset (s : State) (w : Vector Byte 16) : (s.setRegs w).fontset = s.fontset := rfl
@[simp] theorem State.setRegs_draws (s : State) (w : Vector Byte 16) : (s.setRegs w).draws = s.draws := rfl
@[simp] theorem State.setRegs_byte (s : State) (w : Vector Byte 16) (j : Nat) : (s.setRegs w).byte j = s.byte j := rfl
@[simp] theorem State.setRegs_pixel (s : State) (w : Vector Byte 16) (j k : Nat) : (s.setRegs w).pixel j k = s.pixel j k := rfl

/-! ### setIndex -/

@[simp] theorem State.setIndex_v (s : State) (w : Word) : (s.setIndex w).v = s.v := rfl
@[simp] theorem State.setIndex_index (s : State) (w : Word) : (s.setIndex w).index = w := rfl
@[simp] theorem State.setIndex_pc (s : State) (w : Word) : (s.setIndex w).pc = s.pc := rfl
@[simp] theorem State.setIndex_stack (s : State) (w : Word) : (s.setIndex w).stack = s.stack := rfl
@[simp] theorem State.setIndex_sp (s : State) (w : Word) : (s.setIndex w).sp = s.sp := rfl
@[simp] theorem State.setIndex_dt (s : State) (w : Word) : (s.setIndex w).dt = s.dt := rfl
@[simp] theorem State.setIndex_st (s : State) (w : Word) : (s.setIndex w).st = s.st := rfl
@[simp] theorem State.setIndex_fb (s : State) (w : Word) : (s.setIndex w).fb = s.fb := rfl
@[simp] theorem State.setIndex_redraw (s : State) (w : Word) : (s.setIndex w).redraw = s.redraw := rfl
@[simp] theorem State.setIndex_keys (s : State) (w : Word) : (s.setIndex w).keys = s.keys := rfl
@[simp] theorem State.setIndex_mem (s : State) (w : Word) : (s.setIndex w).mem = s.mem := rfl
@[simp] theorem State.setIndex_run (s : State) (w : Word) : (s.setIndex w).run = s.run := rfl
@[simp] theorem State.setIndex_fontset (s : State) (w : Word) : (s.setIndex w).fontset = s.fontset := rfl
@[simp] theorem State.setIndex_draws (s : State) (w : Word) : (s.setIndex w).draws = s.draws := rfl
@[simp] theorem State.setIndex_reg (s : State) (w : Word) (j : Reg) : (s.setIndex w).reg j = s.reg j := rfl
@[simp] theorem State.setIndex_byte (s : State) (w : Word) (j : Nat) : (s.setIndex w).byte j = s.byte j := rfl
@[simp] theorem State.setIndex_pixel (s : State) (w : Word) (j k : Nat) : (s.setIndex w).pixel j k = s.pixel j k := rfl

/-! ### setPc -/

@[simp] theorem State.setPc_v (s : State) (w : Word) : (s.setPc w).v = s.v := rfl
@[simp] theorem State.setPc_index (s : State) (w : Word) : (s.setPc w).index = s.index := rfl
@[simp] theorem State.setPc_pc (s : State) (w : Word) : (s.setPc w).pc = w := rfl
@[simp] theorem State.setPc_stack (s : State) (w : Word) : (s.setPc w).stack = s.stack := rfl
@[simp] theorem State.setPc_sp (s : State) (w : Word) : (s.setPc w).sp = s.sp := rfl
@[simp] theorem State.setPc_dt (s : State) (w : Word) : (s.setPc w).dt = s.dt := rfl
@[simp] theorem State.setPc_st (s : State) (w : Word) : (s.setPc w).st = s.st := rfl
@[simp] theorem State.setPc_fb (s : State) (w : Word) : (s.setPc w).fb = s.fb := rfl
@[simp] theorem State.setPc_redraw (s : State) (w : Word) : (s.setPc w).redraw = s.redraw := rfl
@[simp] theorem State.setPc_keys (s : State) (w : Word) : (s.setPc w).keys = s.keys := rfl
@[simp] theorem State.setPc_mem (s : State) (w : Word) : (s.setPc w).mem = s.mem := rfl
@[simp] theorem State.setPc_run (s : State) (w : Word) : (s.setPc w).run = s.run := rfl
@[simp] theorem State.setPc_fontset (s : State) (w : Word) : (s.setPc w).fontset = s.fontset := rfl
@[simp] theorem State.setPc_draws (s : State) (w : Word) : (s.setPc w).draws = s.draws := rfl
@[simp] theorem State.setPc_reg (s : State) (w : Word) (j : Reg) : (s.setPc w).reg j = s.reg j := rfl
@[simp] theorem State.setPc_byte (s : State) (w : Word) (j : Nat) : (s.setPc w).byte j = s.byte j := rfl
@[simp] theorem State.setPc_pixel (s : State) (w : Word) (j k : Nat) : (s.setPc w).pixel j k = s.pixel j k := rfl

/-! ### advance -/

@[simp] theorem State.advance_v (s : State) : (s.advance).v = s.v := rfl
@[simp] theorem State.advance_index (s : State) : (s.advance).index = s.index := rfl
@[simp] theorem State.advance_pc (s : State) : (s.advance).pc = s.pc + 2 := rfl
@[simp] theorem State.advance_stack (s : State) : (s.advance).stack = s.stack := rfl
@[simp] theorem State.advance_sp (s : State) : (s.advance).sp = s.sp := rfl
@[simp] theorem State.advance_dt (s : State) : (s.advance).dt = s.dt := rfl
@[simp] theorem State.advance_st (s : State) : (s.advance).st = s.st := rfl
@[simp] theorem State.advance_fb (s : State) : (s.advance).fb = s.fb := rfl
@[simp] theorem State.advance_redraw (s : State) : (s.advance).redraw = s.redraw := rfl
@[simp] theorem State.advance_keys (s : State) : (s.advance).keys = s.keys := rfl
@[simp] theorem State.advance_mem (s : State) : (s.advance).mem = s.mem := rfl
@[simp] theorem State.advance_run (s : State) : (s.advance).run = s.run := rfl
@[simp] theorem State.advance_fontset (s : State) : (s.advance).fontset = s.fontset := rfl
@[simp] theorem State.advance_draws (s : State) : (s.advance).draws = s.draws := rfl
@[simp] theorem State.advance_reg (s : State) (j : Reg) : (s.advance).reg j = s.reg j := rfl
@[simp] theorem State.advance_byte (s : State) (j : Nat) : (s.advance).byte j = s.byte j := rfl
@[simp] theorem State.advance_pixel (s : State) (j k : Nat) : (s.advance).pixel j k = s.pixel j k := rfl

/-! ### skipIf -/

@[simp] theorem State.skipIf_v (s : State) (c : Bool) : (s.skipIf c).v = s.v := rfl
@[simp] theorem State.skipIf_index (s : State) (c : Bool) : (s.skipIf c).index = s.index := rfl
@[simp] theorem State.skipIf_pc (s : State) (c : Bool) : (s.skipIf c).pc = if c then s.pc + 4 else s.pc + 2 := rfl
@[simp] theorem State.skipIf_stack (s : State) (c : Bool) : (s.skipIf c).stack = s.stack := rfl
@[simp] theorem State.skipIf_sp (s : State) (c : Bool) : (s.skipIf c).sp = s.sp := rfl
@[simp] theorem State.skipIf_dt (s : State) (c : Bool) : (s.skipIf c).dt = s.dt := rfl
@[simp] theorem State.skipIf_st (s : State) (c : Bool) : (s.skipIf c).st = s.st := rfl
@[simp] theorem State.skipIf_fb (s : State) (c : Bool) : (s.skipIf c).fb = s.fb := rfl
@[simp] theorem State.skipIf_redraw (s : State) (c : Bool) : (s.skipIf c).redraw = s.redraw := rfl
@[simp] theorem State.skipIf_keys (s : State) (c : Bool) : (s.skipIf c).keys = s.keys := rfl
@[simp] theorem State.skipIf_mem (s : State) (c : Bool) : (s.skipIf c).mem = s.mem := rfl
@[simp] theorem State.skipIf_run (s : State) (c : Bool) : (s.skipIf c).run = s.run := rfl
@[simp] theorem State.skipIf_fontset (s : State) (c : Bool) : (s.skipIf c).fontset = s.fontset := rfl
@[simp] theorem State.skipIf_draws (s : State) (c : Bool) : (s.skipIf c).draws = s.draws := rfl
@[simp] theorem State.skipIf_reg (s : State) (c : Bool) (j : Reg) : (s.skipIf c).reg j = s.reg j := rfl
@[simp] theorem State.skipIf_byte (s : State) (c : Bool) (j : Nat) : (s.skipIf c).byte j = s.byte j := rfl
@[simp] theorem State.skipIf_pixel (s : State) (c : Bool) (j k : Nat) : (s.skipIf c).pixel j k = s.pixel j k := rfl

/-! ### setDt -/

@[simp] theorem State.setDt_v (s : State) (b : Byte) : (s.setDt b).v = s.v := rfl
@[simp] theorem State.setDt_index (s : State) (b : Byte) : (s.setDt b).index = s.index := rfl
@[simp] theorem State.setDt_pc (s : State) (b : Byte) : (s.setDt b).pc = s.pc := rfl
@[simp] theorem State.setDt_stack (s : State) (b : Byte) : (s.setDt b).stack = s.stack := rfl
@[simp] theorem State.setDt_sp (s : State) (b : Byte) : (s.setDt b).sp = s.sp := rfl
@[simp] theorem State.setDt_dt (s : State) (b : Byte) : (s.setDt b).dt = b := rfl
@[simp] theorem State.setDt_st (s : State) (b : Byte) : (s.setDt b).st = s.st := rfl
@[simp] theorem State.setDt_fb (s : State) (b : Byte) : (s.setDt b).fb = s.fb := rfl
@[simp] theorem State.setDt_redraw (s : State) (b : Byte) : (s.setDt b).redraw = s.redraw := rfl
@[simp] theorem State.setDt_keys (s : State) (b : Byte) : (s.setDt b).keys = s.keys := rfl
@[simp] theorem State.setDt_mem (s : State) (b : Byte) : (s.setDt b).mem = s.mem := rfl
@[simp] theorem State.setDt_run (s : State) (b : Byte) : (s.setDt b).run = s.run := rfl
@[simp] theorem State.setDt_fontset (s : State) (b : Byte) : (s.setDt b).fontset = s.fontset := rfl
@[simp] theorem State.setDt_draws (s : State) (b : Byte) : (s.setDt b).draws = s.draws := rfl
@[simp] theorem State.setDt_reg (s : State) (b : Byte) (j : Reg) : (s.setDt b).reg j = s.reg j := rfl
@[simp] theorem State.setDt_byte (s : State) (b : Byte) (j : Nat) : (s.setDt b).byte j = s.byte j := rfl
@[simp] theorem State.setDt_pixel (s : State) (b : Byte) (j k : Nat) : (s.setDt b).pixel j k = s.pixel j k := rfl

/-! ### setSt -/

@[simp] theorem State.setSt_v (s : State) (b : Byte) : (s.setSt b).v = s.v := rfl
@[simp] theorem State.setSt_index (s : State) (b : Byte) : (s.setSt b).index = s.index := rfl
@[simp] theorem State.setSt_pc (s : State) (b : Byte) : (s.setSt b).pc = s.pc := rfl
@[simp] theorem State.setSt_stack (s : State) (b : Byte) : (s.setSt b).stack = s.stack := rfl
@[simp] theorem State.setSt_sp (s : State) (b : Byte) : (s.setSt b).sp = s.sp := rfl
@[simp] theorem State.setSt_dt (s : State) (b : Byte) : (s.setSt b).dt = s.dt := rfl
@[simp] theorem State.setSt_st (s : State) (b : Byte) : (s.setSt b).st = b := rfl
@[simp] theorem State.setSt_fb (s : State) (b : Byte) : (s.setSt b).fb = s.fb := rfl
@[simp] theorem State.setSt_redraw (s : State) (b : Byte) : (s.setSt b).redraw = s.redraw := rfl
@[simp] theorem State.setSt_keys (s : State) (b : Byte) : (s.setSt b).keys = s.keys := rfl
@[simp] theorem State.setSt_mem (s : State) (b : Byte) : (s.setSt b).mem = s.mem := rfl
@[simp] theorem State.setSt_run (s : State) (b : Byte) : (s.setSt b).run = s.run := rfl
@[simp] theorem State.setSt_fontset (s : State) (b : Byte) : (s.setSt b).fontset = s.fontset := rfl
@[simp] theorem State.setSt_draws (s : State) (b : Byte) : (s.setSt b).draws = s.draws := rfl
@[simp] theorem State.setSt_reg (s : State) (b : Byte) (j : Reg) : (s.setSt b).reg j = s.reg j := rfl
@[simp] theorem State.setSt_byte (s : State) (b : Byte) (j : Nat) : (s.setSt b).byte j = s.byte j := rfl
@[simp] theorem State.setSt_pixel (s : State) (b : Byte) (j k : Nat) : (s.setSt b).pixel j k = s.pixel j k := rfl

/-! ### storeBytes -/

@[simp] theorem State.storeBytes_v (s : State) (a : Nat) (bs : List Byte) : (s.storeBytes a bs).v = s.v := rfl
@[simp] theorem State.storeBytes_index (s : State) (a : Nat) (bs : List Byte) : (s.storeBytes a bs).index = s.index := rfl
@[simp] theorem State.storeBytes_pc (s : State) (a : Nat) (bs : List Byte) : (s.storeBytes a bs).pc = s.pc := rfl
@[simp] theorem State.storeBytes_stack (s : State) (a : Nat) (bs : List Byte) : (s.storeBytes a bs).stack = s.stack := rfl
@[simp] theorem State.storeBytes_sp (s : State) (a : Nat) (bs : List Byte) : (s.storeBytes a bs).sp = s.sp := rfl
@[simp] theorem State.storeBytes_dt (s : State) (a : Nat) (bs : List Byte) : (s.storeBytes a bs).dt = s.dt := rfl
@[simp] theorem State.storeBytes_st (s : State) (a : Nat) (bs : List Byte) : (s.storeBytes a bs).st = s.st := rfl
@[simp] theorem State.storeBytes_fb (s : State) (a : Nat) (bs : List Byte) : (s.storeBytes a bs).fb = s.fb := rfl
@[simp] theorem State.storeBytes_redraw (s : State) (a : Nat) (bs : List Byte) : (s.storeBytes a bs).redraw = s.redraw := rfl
@[simp] theorem State.storeBytes_keys (s : State) (a : Nat) (bs : List Byte) : (s.storeBytes a bs).keys = s.keys := rfl
@[simp] theorem State.storeBytes_mem (s : State) (a : Nat) (bs : List Byte) : (s.storeBytes a bs).mem = s.mem.writeBytes s.fontset a bs := rfl
@[simp] theorem State.storeBytes_run (s : State) (a : Nat) (bs : List Byte) : (s.storeBytes a bs).run = s.run := rfl
@[simp] theorem State.storeBytes_fontset (s : State) (a : Nat) (bs : List Byte) : (s.storeBytes a bs).fontset = s.fontset := rfl
@[simp] theorem State.storeBytes_draws (s : State) (a : Nat) (bs : List Byte) : (s.storeBytes a bs).draws = s.draws := rfl
@[simp] theorem State.storeBytes_reg (s : State) (a : Nat) (bs : List Byte) (j : Reg) : (s.storeBytes a bs).reg j = s.reg j := rfl
@[simp] theorem State.storeBytes_pixel (s : State) (a : Nat) (bs : List Byte) (j k : Nat) : (s.storeBytes a bs).pixel j k = s.pixel j k := rfl

/-! ### redrawWith -/

@[simp] theorem State.redrawWith_v (s : State) (g : Framebuffer) : (s.redrawWith g).v = s.v := rfl
@[simp] theorem State.redrawWith_index (s : State) (g : Framebuffer) : (s.redrawWith g).index = s.index := rfl
@[simp] theorem State.redrawWith_pc (s : State) (g : Framebuffer) : (s.redrawWith g).pc = s.pc := rfl
@[simp] theorem State.redrawWith_stack (s : State) (g : Framebuffer) : (s.redrawWith g).stack = s.stack := rfl
@[simp] theorem State.redrawWith_sp (s : State) (g : Framebuffer) : (s.redrawWith g).sp = s.sp := rfl
@[simp] theorem State.redrawWith_dt (s : State) (g : Framebuffer) : (s.redrawWith g).dt = s.dt := rfl
@[simp] theorem State.redrawWith_st (s : State) (g : Framebuffer) : (s.redrawWith g).st = s.st := rfl
@[simp] theorem State.redrawWith_fb (s : State) (g : Framebuffer) : (s.redrawWith g).fb = g := rfl
@[simp] theorem State.redrawWith_redraw (s : State) (g : Framebuffer) : (s.redrawWith g).redraw = true := rfl
@[simp] theorem State.redrawWith_keys (s : State) (g : Framebuffer) : (s.redrawWith g).keys = s.keys := rfl
@[simp] theorem State.redrawWith_mem (s : State) (g : Framebuffer) : (s.redrawWith g).mem = s.mem := rfl
@[simp] theorem State.redrawWith_run (s : State) (g : Framebuffer) : (s.redrawWith g).run = s.run := rfl
@[simp] theorem State.redrawWith_fontset (s : State) (g : Framebuffer) : (s.redrawWith g).fontset = s.fontset := rfl
@[simp] theorem State.redrawWith_draws (s : State) (g : Framebuffer) : (s.redrawWith g).draws = s.draws := rfl
@[simp] theorem State.redrawWith_reg (s : State) (g : Framebuffer) (j : Reg) : (s.redrawWith g).reg j = s.reg j := rfl
@[simp] theorem State.redrawWith_byte (s : State) (g : Framebuffer) (j : Nat) : (s.redrawWith g).byte j = s.byte j := rfl

/-! ### drawn -/

@[simp] theorem State.drawn_v (s : State) : (s.drawn).v = s.v := rfl
@[simp] theorem State.drawn_index (s : State) : (s.drawn).index = s.index := rfl
@[simp] theorem State.drawn_pc (s : State) : (s.drawn).pc = s.pc := rfl
@[simp] theorem State.drawn_stack (s : State) : (s.drawn).stack = s.stack := rfl
@[simp] theorem State.drawn_sp (s : State) : (s.drawn).sp = s.sp := rfl
@[simp] theorem State.drawn_dt (s : State) : (s.drawn).dt = s.dt := rfl
@[simp] theorem State.drawn_st (s : State) : (s.drawn).st = s.st := rfl
@[simp] theorem State.drawn_fb (s : State) : (s.drawn).fb = s.fb := rfl
@[simp] theorem State.drawn_redraw (s : State) : (s.drawn).redraw = s.redraw := rfl
@[simp] theorem State.drawn_keys (s : State) : (s.drawn).keys = s.keys := rfl
@[simp] theorem State.drawn_mem (s : State) : (s.drawn).mem = s.mem := rfl
@[simp] theorem State.drawn_run (s : State) : (s.drawn).run = s.run := rfl
@[simp] theorem State.drawn_fontset (s : State) : (s.drawn).fontset = s.fontset := rfl
@[simp] theorem State.drawn_draws (s : State) : (s.drawn).draws = s.draws + 1 := rfl
@[simp] theorem State.drawn_reg (s : State) (j : Reg) : (s.drawn).reg j = s.reg j := rfl
@[simp] theorem State.drawn_byte (s : State) (j : Nat) : (s.drawn).byte j = s.byte j := rfl
@[simp] theorem State.drawn_pixel (s : State) (j k : Nat) : (s.drawn).pixel j k = s.pixel j k := rfl

/-! ### setRun -/

@[simp] theorem State.setRun_v (s : State) (r : RunStatus) : (s.setRun r).v = s.v := rfl
@[simp] theorem State.setRun_index (s : State) (r : RunStatus) : (s.setRun r).index = s.index := rfl
@[simp] theorem State.setRun_pc (s : State) (r : RunStatus) : (s.setRun r).pc = s.pc := rfl
@[simp] theorem State.setRun_stack (s : State) (r : RunStatus) : (s.setRun r).stack = s.stack := rfl
@[simp] theorem State.setRun_sp (s : State) (r : RunStatus) : (s.setRun r).sp = s.sp := rfl
@[simp] theorem State.setRun_dt (s : State) (r : RunStatus) : (s.setRun r).dt = s.dt := rfl
@[simp] theorem State.setRun_st (s : State) (r : RunStatus) : (s.setRun r).st = s.st := rfl
@[simp] theorem State.setRun_fb (s : State) (r : RunStatus) : (s.setRun r).fb = s.fb := rfl
@[simp] theorem State.setRun_redraw (s : State) (r : RunStatus) : (s.setRun r).redraw = s.redraw := rfl
@[simp] theorem State.setRun_keys (s : State) (r : RunStatus) : (s.setRun r).keys = s.keys := rfl
@[simp] theorem State.setRun_mem (s : State) (r : RunStatus) : (s.setRun r).mem = s.mem := rfl
@[simp] theorem State.setRun_run (s : State) (r : RunStatus) : (s.setRun r).run = r := rfl
@[simp] theorem State.setRun_fontset (s : State) (r : RunStatus) : (s.setRun r).fontset = s.fontset := rfl
@[simp] theorem State.setRun_draws (s : State) (r : RunStatus) : (s.setRun r).draws = s.draws := rfl
@[simp] theorem State.setRun_reg (s : State) (r : RunStatus) (j : Reg) : (s.setRun r).reg j = s.reg j := rfl
@[simp] theorem State.setRun_byte (s : State) (r : RunStatus) (j : Nat) : (s.setRun r).byte j = s.byte j := rfl
@[simp] theorem State.setRun_pixel (s : State) (r : RunStatus) (j k : Nat) : (s.setRun r).pixel j k = s.pixel j k := rfl

/-! ### Reading what was written -/

/-- A register read after a register write. -/
@[simp] theorem State.setReg_reg (s : State) (x : Reg) (b : Byte) (j : Reg) :
    (s.setReg x b).reg j = if x = j then b else s.reg j := by
  simp [State.reg, State.setReg, Vector.getElem_set, Fin.ext_iff]

/-- A register of a whole register file. -/
theorem State.setRegs_reg (s : State) (w : Vector Byte 16) (j : Reg) : (s.setRegs w).reg j = w[j] := rfl

/-- A byte read after a store. -/
@[simp] theorem State.storeBytes_byte (s : State) (a : Nat) (bs : List Byte) (j : Nat) :
    (s.storeBytes a bs).byte j = (s.mem.writeBytes s.fontset a bs).read s.fontset j := rfl

/-- Two register files that agree register by register are equal. -/
theorem State.v_ext {s t : State} (h : ∀ j, s.reg j = t.reg j) : s.v = t.v :=
  Vector.ext fun k hk => h ⟨k, hk⟩

/-- States that agree field by field are equal. -/
theorem State.ext_fields {s t : State} (hv : s.v = t.v) (hi : s.index = t.index) (hpc : s.pc = t.pc)
    (hstack : s.stack = t.stack) (hsp : s.sp = t.sp) (hdt : s.dt = t.dt) (hst : s.st = t.st) (hfb : s.fb = t.fb)
    (hr : s.redraw = t.redraw) (hk : s.keys = t.keys) (hm : s.mem = t.mem) (hrun : s.run = t.run)
    (hf : s.fontset = t.fontset) (hd : s.draws = t.draws) : s = t := by
  cases s; cases t; simp_all

end Sys2Proof.Machine
end

