-- ==== Sys2Proof/Laws/Ops.lean ====
section
/-! SUPPORT. For each shared operation of Machine/Ops.lean, everything it can do. -/

namespace Sys2Proof.Machine

/-- Taking a fault is a next state that differs in Run alone. -/
theorem raise_eq (c : Cause) (s : State) : raise c s = .next (s.setRun (.faulted c)) := rfl

/-- Finishing an instruction answers its next state, or takes its fault in the state before it. -/
theorem settle_cases (s : State) (r : Except Cause State) :
    (∃ t, r = .ok t ∧ settle s r = .next t) ∨ (∃ c, r = .error c ∧ settle s r = raise c s) := by
  cases r with
  | ok t => exact .inl ⟨t, rfl, rfl⟩
  | error c => exact .inr ⟨c, rfl, rfl⟩

/-- A guarded transfer whose span fits goes on. -/
theorem guardSpan_fits {base n : Nat} {kind : Access} {s t : State} (h : n = 0 ∨ base + n ≤ 4096) :
    guardSpan base n kind s t = .next t := by
  simp [guardSpan, spanFits_iff.2 h]

/-- A guarded transfer whose span does not fit takes MemoryOutOfBounds at the lowest address outside. -/
theorem guardSpan_outside {base n : Nat} {kind : Access} {s t : State} (hn : n ≠ 0) (h : 4096 < base + n) :
    guardSpan base n kind s t = raise (.memoryOutOfBounds (max base 4096) kind) s := by
  have : spanFits base n = false := by
    rw [Bool.eq_false_iff, Ne, spanFits_iff]; omega
  simp [guardSpan, this, lowestOutside]

/-- A guarded transfer goes on, or takes a fault in the state before it. -/
theorem guardSpan_cases (base n : Nat) (kind : Access) (s t : State) :
    ((n = 0 ∨ base + n ≤ 4096) ∧ guardSpan base n kind s t = .next t) ∨
      guardSpan base n kind s t = raise (.memoryOutOfBounds (max base 4096) kind) s := by
  by_cases h : n = 0 ∨ base + n ≤ 4096
  · exact .inl ⟨h, guardSpan_fits h⟩
  · exact .inr (guardSpan_outside (by omega) (by omega))

/-- A push with a free entry: pc goes to Stack[SP], SP goes up by one, nothing else changes. -/
theorem State.push_ok {s : State} (h : s.sp.val < 16) :
    s.push = .ok { s with stack := s.stack.set s.sp.val s.pc h, sp := ⟨s.sp.val + 1, by omega⟩ } := by
  simp [State.push, h]

/-- A push on a full stack. -/
theorem State.push_full {s : State} (h : ¬ s.sp.val < 16) : s.push = .error (.stackOverflow s.pc) := by
  simp [State.push, h]

/-- A pop with a live entry: SP goes down by one, pc is the entry, which stays. -/
theorem State.pop_ok {s : State} (h : ¬ s.sp.val = 0) :
    s.pop = .ok { s with pc := s.stack[s.sp.val - 1]'(by omega), sp := ⟨s.sp.val - 1, by omega⟩ } := by
  simp [State.pop, h]

/-- A pop on an empty stack. -/
theorem State.pop_empty {s : State} (h : s.sp.val = 0) : s.pop = .error (.stackUnderflow s.pc) := by
  simp [State.pop, h]

/-- A fetch in range. -/
theorem fetch_ok {s : State} (h : s.pc.toNat ≤ 4094) :
    fetch s = .ok (wordOfBytes (s.byte s.pc.toNat) (s.byte (s.pc.toNat + 1))) := by
  simp [fetch, Nat.not_lt.2 h]

/-- A fetch out of range. -/
theorem fetch_outside {s : State} (h : 4094 < s.pc.toNat) :
    fetch s = .error (.memoryOutOfBounds s.pc.toNat .fetch) := by
  simp [fetch, h]

/-- The word of two bytes is `hi * 256 + lo` (R91). -/
theorem wordOfBytes_toNat (hi lo : Byte) : (wordOfBytes hi lo).toNat = hi.toNat * 256 + lo.toNat := by
  have h1 := lo.isLt
  rw [wordOfBytes, BitVec.toNat_append, Nat.shiftLeft_eq, Nat.mul_comm,
    ← Nat.two_pow_add_eq_or_of_lt h1]

/-- A register after flag-then-result: the result in V[x], the flag in V[15] unless x is 15, every other as before. -/
theorem State.flagThen_reg (s : State) (flag : Byte) (x : Reg) (f : State → Byte) (j : Reg) :
    (s.flagThen flag x f).reg j =
      if x = j then f (s.setReg flagReg flag) else if flagReg = j then flag else s.reg j := by
  simp [State.flagThen]

/-- Flag-then-result touches the V registers alone. -/
theorem State.flagThen_eq (s : State) (flag : Byte) (x : Reg) (f : State → Byte) :
    s.flagThen flag x f = s.setRegs (s.flagThen flag x f).v := rfl

end Sys2Proof.Machine
end

