-- ==== Sys2Proof/Laws/Display.lean ====
section
/-! SUPPORT. The masks of DXYN pixel by pixel: what `44_display.md` R171 to R173 say of column, row and bit. -/

namespace Sys2Proof.Machine

/-- A sprite byte toggles column `x` exactly when `x` is on the screen and bit `7 - (x - x0)` of the byte is 1. -/
theorem spriteMask_getLsbD (b : Byte) (x0 x : Nat) :
    (spriteMask b x0).getLsbD x = (decide (x < 64) && (decide (x0 ≤ x ∧ x < x0 + 8) && b.getLsbD (7 - (x - x0)))) := by
  simp only [spriteMask, BitVec.getLsbD_shiftLeft, BitVec.getLsbD_setWidth, BitVec.getLsbD_reverse, BitVec.getMsbD]
  by_cases hx : x < 64 <;> by_cases h0 : x0 ≤ x <;> by_cases h8 : x < x0 + 8 <;>
    simp [hx, h0, h8, Nat.not_lt.2]
  · simp [show x - x0 < 64 by omega, show x - x0 < 8 by omega]
  · simp [show ¬ x - x0 < 8 by omega]

/-- Row `y` of a sprite at (`x0`, `y0`), pixel by pixel. -/
theorem spriteRow_getLsbD (sprite : List Byte) (x0 y0 x y : Nat) :
    (spriteRow sprite x0 y0 y).getLsbD x =
      (decide (x < 64) && (decide (x0 ≤ x ∧ x < x0 + 8) && (decide (y0 ≤ y) &&
        (sprite.getD (y - y0) 0).getLsbD (7 - (x - x0))))) := by
  unfold spriteRow
  split
  · next h => rw [spriteMask_getLsbD]; simp [h]
  · next h => simp [h]

/-- A pixel is a bit of its row. -/
theorem State.pixel_row (s : State) (x : Nat) (y : Fin 32) : s.pixel x y.val = (s.fb[y]).getLsbD x := by
  simp [State.pixel, y.isLt]

/-- Outside the raster no pixel is set. -/
theorem State.pixel_outside (s : State) (x y : Nat) (h : ¬ (x < 64 ∧ y < 32)) : s.pixel x y = false := by
  unfold State.pixel
  split
  · next hy => exact BitVec.getLsbD_of_ge _ _ (by omega)
  · rfl

/-- A pixel after a new framebuffer has been put in place. -/
theorem State.pixel_redrawWith (s : State) (g : Framebuffer) (x y : Nat) :
    (s.redrawWith g).pixel x y = if h : y < 32 then (g[y]'h).getLsbD x else false := rfl

/-- A row after the blit. -/
theorem blit_getElem (fb : Framebuffer) (sprite : List Byte) (x0 y0 : Nat) (y : Nat) (h : y < 32) :
    (blit fb sprite x0 y0)[y] = fb[y] ^^^ spriteRow sprite x0 y0 y := by
  simp [blit]

/-- Some visible pixel goes from 1 to 0. -/
theorem collides_iff (fb : Framebuffer) (sprite : List Byte) (x0 y0 : Nat) :
    collides fb sprite x0 y0 = true ↔
      ∃ y : Fin 32, ∃ x, (fb[y]).getLsbD x = true ∧ (spriteRow sprite x0 y0 y.val).getLsbD x = true := by
  simp only [collides, List.any_eq_true, List.mem_finRange, true_and, bne_iff_ne]
  refine exists_congr fun y => ⟨fun h => ?_, fun ⟨x, h1, h2⟩ h => ?_⟩
  · by_contra hc
    refine h (BitVec.eq_of_getLsbD_eq fun x _ => ?_)
    rw [BitVec.getLsbD_and, show (0 : BitVec 64).getLsbD x = false from BitVec.getLsbD_zero, Bool.and_eq_false_iff]
    by_contra hd
    simp only [not_or, Bool.not_eq_false] at hd
    exact hc ⟨x, hd.1, hd.2⟩
  · have := congrArg (fun r => r.getLsbD x) h
    rw [BitVec.getLsbD_and, h1, h2, show (0 : BitVec 64).getLsbD x = false from BitVec.getLsbD_zero] at this
    cases this

end Sys2Proof.Machine
end

