-- ==== Sys2Proof/Laws/Operands.lean ====
section
/-! SUPPORT. The operand forms as the spec's integer arithmetic, and what a block transfer and a key choice give. -/

namespace Sys2Proof.Machine

/-- A 12-bit immediate is taken as the unsigned number it is. -/
@[simp] theorem zextImm_toNat (nnn : Imm12) : (zextImm nnn).toNat = nnn.toNat := by
  have := nnn.isLt
  simp only [zextImm, BitVec.toNat_setWidth]; omega

/-- A register widened to 16 bits is the same number. -/
@[simp] theorem State.zextReg_toNat (s : State) (x : Reg) : (s.zextReg x).toNat = (s.reg x).toNat := by
  have := (s.reg x).isLt
  simp only [State.zextReg, BitVec.toNat_setWidth]; omega

/-- The target of BNNN is the sum, never wrapped: at most 0x10FE. -/
theorem State.offsetTarget_toNat (s : State) (nnn : Imm12) :
    (s.offsetTarget nnn).toNat = nnn.toNat + (s.reg 0).toNat := by
  have h1 := nnn.isLt
  have h2 := (s.reg 0).isLt
  rw [State.offsetTarget, BitVec.toNat_add, zextImm_toNat, State.zextReg_toNat]; omega

/-- The glyph address is five times the register. -/
theorem State.glyphAddress_toNat (s : State) (x : Reg) : (s.glyphAddress x).toNat = (s.reg x).toNat * 5 := by
  have h2 := (s.reg x).isLt
  rw [State.glyphAddress, BitVec.toNat_mul, State.zextReg_toNat]
  simp only [Config.glyphBytes, BitVec.toNat_ofNat]; omega

/-- There are three decimal digits. -/
@[simp] theorem decimalDigits_length (b : Byte) : (decimalDigits b).length = 3 := by simp [decimalDigits]

/-- FX55 stores X + 1 bytes. -/
@[simp] theorem State.regBlock_length (s : State) (x : Reg) : (s.regBlock x).length = x.val + 1 := by
  simp [State.regBlock, blockCount, Nat.succ_le_of_lt x.isLt]

/-- The bytes that FX55 stores are the registers in order. -/
theorem State.regBlock_getD (s : State) (x j : Reg) (hj : j.val ≤ x.val) (d : Byte) :
    (s.regBlock x).getD j.val d = s.reg j := by
  have h1 : j.val < blockCount x := Nat.lt_succ_of_le hj
  simp [State.regBlock, State.reg, h1]

/-- The registers after FX65. -/
@[simp] theorem State.loadedRegs_reg (s t : State) (x j : Reg) :
    (t.setRegs (s.loadedRegs x)).reg j = if j.val ≤ x.val then s.byte (s.base + j.val) else s.reg j := by
  simp [State.reg, State.setRegs, State.loadedRegs]

/-- The pressed keys. -/
theorem mem_pressedKeys {keys : Vector Bool 16} {k : Reg} : k ∈ pressedKeys keys ↔ keys[k] = true := by
  simp [pressedKeys]

/-- FX0A reports no key exactly when none is pressed. -/
theorem pickKey_none {keys : Vector Bool 16} {d : Nat} : pickKey keys d = none ↔ ∀ k : Reg, keys[k] = false := by
  have h : pickKey keys d = none ↔ pressedKeys keys = [] := by
    unfold pickKey; split <;> simp_all
  rw [h, List.eq_nil_iff_forall_not_mem]
  simp [mem_pressedKeys]

/-- The key FX0A reports is pressed. -/
theorem pickKey_pressed {keys : Vector Bool 16} {d : Nat} {k : Reg} (h : pickKey keys d = some k) : keys[k] = true := by
  rw [← mem_pressedKeys]
  unfold pickKey at h
  split at h
  · cases h
  · next hk => cases h; simp [hk]
  · next a b ks hk =>
    have hlt : Config.keyPick keys d % (ks.length + 2) < (a :: b :: ks).length := Nat.mod_lt _ (Nat.succ_pos _)
    cases h
    rw [hk, List.getD_eq_getElem _ _ hlt]
    exact List.getElem_mem hlt

end Sys2Proof.Machine
end

