-- ==== Sys2Proof/Laws/PerInstr.lean ====
section
/-! SUPPORT. Facts about every instruction as syntax, one lemma per constructor. -/

namespace Sys2Proof.Laws.EncodingRow

/-- The word of an instruction lies in a row of the opcode map: under the row's mask it is the row's match (R95). -/
def Statement (i : Instr) : Prop := ∃ r ∈ opcodeRows, encode i &&& r.mask = r.value

theorem cls : Statement (.cls) :=
  ⟨opcodeRows[0], List.getElem_mem _, rfl⟩

theorem ret : Statement (.ret) :=
  ⟨opcodeRows[1], List.getElem_mem _, rfl⟩

theorem jpNnn (nnn : Imm12) : Statement (.jpNnn nnn) :=
  ⟨opcodeRows[2], List.getElem_mem _, formatNNN_top _ _⟩

theorem callNnn (nnn : Imm12) : Statement (.callNnn nnn) :=
  ⟨opcodeRows[3], List.getElem_mem _, formatNNN_top _ _⟩

theorem seVxNn (x : Reg) (nn : Byte) : Statement (.seVxNn x nn) :=
  ⟨opcodeRows[4], List.getElem_mem _, formatXNN_top _ _ _⟩

theorem sneVxNn (x : Reg) (nn : Byte) : Statement (.sneVxNn x nn) :=
  ⟨opcodeRows[5], List.getElem_mem _, formatXNN_top _ _ _⟩

theorem seVxVy (x y : Reg) : Statement (.seVxVy x y) :=
  ⟨opcodeRows[6], List.getElem_mem _, formatXYN_ends _ _ _ _⟩

theorem ldVxNn (x : Reg) (nn : Byte) : Statement (.ldVxNn x nn) :=
  ⟨opcodeRows[7], List.getElem_mem _, formatXNN_top _ _ _⟩

theorem addVxNn (x : Reg) (nn : Byte) : Statement (.addVxNn x nn) :=
  ⟨opcodeRows[8], List.getElem_mem _, formatXNN_top _ _ _⟩

theorem ldVxVy (x y : Reg) : Statement (.ldVxVy x y) :=
  ⟨opcodeRows[9], List.getElem_mem _, formatXYN_ends _ _ _ _⟩

theorem orVxVy (x y : Reg) : Statement (.orVxVy x y) :=
  ⟨opcodeRows[10], List.getElem_mem _, formatXYN_ends _ _ _ _⟩

theorem andVxVy (x y : Reg) : Statement (.andVxVy x y) :=
  ⟨opcodeRows[11], List.getElem_mem _, formatXYN_ends _ _ _ _⟩

theorem xorVxVy (x y : Reg) : Statement (.xorVxVy x y) :=
  ⟨opcodeRows[12], List.getElem_mem _, formatXYN_ends _ _ _ _⟩

theorem addVxVy (x y : Reg) : Statement (.addVxVy x y) :=
  ⟨opcodeRows[13], List.getElem_mem _, formatXYN_ends _ _ _ _⟩

theorem subVxVy (x y : Reg) : Statement (.subVxVy x y) :=
  ⟨opcodeRows[14], List.getElem_mem _, formatXYN_ends _ _ _ _⟩

theorem shrVx (x y : Reg) : Statement (.shrVx x y) :=
  ⟨opcodeRows[15], List.getElem_mem _, formatXYN_ends _ _ _ _⟩

theorem subnVxVy (x y : Reg) : Statement (.subnVxVy x y) :=
  ⟨opcodeRows[16], List.getElem_mem _, formatXYN_ends _ _ _ _⟩

theorem shlVx (x y : Reg) : Statement (.shlVx x y) :=
  ⟨opcodeRows[17], List.getElem_mem _, formatXYN_ends _ _ _ _⟩

theorem sneVxVy (x y : Reg) : Statement (.sneVxVy x y) :=
  ⟨opcodeRows[18], List.getElem_mem _, formatXYN_ends _ _ _ _⟩

theorem ldINnn (nnn : Imm12) : Statement (.ldINnn nnn) :=
  ⟨opcodeRows[19], List.getElem_mem _, formatNNN_top _ _⟩

theorem jpV0Nnn (nnn : Imm12) : Statement (.jpV0Nnn nnn) :=
  ⟨opcodeRows[20], List.getElem_mem _, formatNNN_top _ _⟩

theorem rndVxNn (x : Reg) (nn : Byte) : Statement (.rndVxNn x nn) :=
  ⟨opcodeRows[21], List.getElem_mem _, formatXNN_top _ _ _⟩

theorem drwVxVyN (x y : Reg) (n : Fin 16) : Statement (.drwVxVyN x y n) :=
  ⟨opcodeRows[22], List.getElem_mem _, formatXYN_top _ _ _ _⟩

theorem skpVx (x : Reg) : Statement (.skpVx x) :=
  ⟨opcodeRows[23], List.getElem_mem _, formatXNN_ends _ _ _⟩

theorem sknpVx (x : Reg) : Statement (.sknpVx x) :=
  ⟨opcodeRows[24], List.getElem_mem _, formatXNN_ends _ _ _⟩

theorem ldVxDt (x : Reg) : Statement (.ldVxDt x) :=
  ⟨opcodeRows[25], List.getElem_mem _, formatXNN_ends _ _ _⟩

theorem ldVxK (x : Reg) : Statement (.ldVxK x) :=
  ⟨opcodeRows[26], List.getElem_mem _, formatXNN_ends _ _ _⟩

theorem ldDtVx (x : Reg) : Statement (.ldDtVx x) :=
  ⟨opcodeRows[27], List.getElem_mem _, formatXNN_ends _ _ _⟩

theorem ldStVx (x : Reg) : Statement (.ldStVx x) :=
  ⟨opcodeRows[28], List.getElem_mem _, formatXNN_ends _ _ _⟩

theorem addIVx (x : Reg) : Statement (.addIVx x) :=
  ⟨opcodeRows[29], List.getElem_mem _, formatXNN_ends _ _ _⟩

theorem ldFVx (x : Reg) : Statement (.ldFVx x) :=
  ⟨opcodeRows[30], List.getElem_mem _, formatXNN_ends _ _ _⟩

theorem ldBVx (x : Reg) : Statement (.ldBVx x) :=
  ⟨opcodeRows[31], List.getElem_mem _, formatXNN_ends _ _ _⟩

theorem ldMemVx (x : Reg) : Statement (.ldMemVx x) :=
  ⟨opcodeRows[32], List.getElem_mem _, formatXNN_ends _ _ _⟩

theorem ldVxMem (x : Reg) : Statement (.ldVxMem x) :=
  ⟨opcodeRows[33], List.getElem_mem _, formatXNN_ends _ _ _⟩

end Sys2Proof.Laws.EncodingRow
end

