-- ==== Sys2Proof/Laws/Step.lean ====
section
/-! SUPPORT. Everything a Step can do, so that a proof about steps need not unfold `step`. -/

namespace Sys2Proof.Machine

/-- A Step of a faulted machine does nothing. -/
theorem step_faulted {s : State} {c : Cause} (h : s.run = .faulted c) : step s = .next s := by
  simp only [step, h]

/-- A Step that answers a next state did nothing (Run was Faulted), took a fault of the fetch or the decode, or ran the
instruction it fetched. -/
theorem step_cases {s t : State} (h : step s = .next t) :
    (t = s ∧ ∃ c, s.run = .faulted c) ∨
    (s.run = .running ∧ ∃ c, nextInstr s = .error c ∧ t = s.setRun (.faulted c)) ∨
    (s.run = .running ∧ ∃ i, nextInstr s = .ok i ∧ exec i s = .next t) := by
  unfold step at h
  split at h
  · next c hc => cases h; exact .inl ⟨rfl, c, hc⟩
  · next hr =>
    split at h
    · next c hc => cases h; exact .inr (.inl ⟨hr, c, hc, rfl⟩)
    · next i hi => exact .inr (.inr ⟨hr, i, hi, h⟩)

end Sys2Proof.Machine
end

