-- ==== Sys2Proof/Tests/Slice0.lean ====
section
/-! SUPPORT. The model's own tests: decoding of words written out from the encodings of `30_encoding.md` R95; single Steps
with the expected results of `95_test_vectors.md` (the vector's name in the docstring); and for each statement with
hypotheses a witness that they can be met together. -/

namespace Sys2Proof.Tests

open Sys2Proof Sys2Proof.Machine

/-- The state after Boot with a word at pc. -/
def at_ (w : Nat) : State := State.reset.withFetchWord 16 w

/-- The keys with these pressed. -/
def keysDown (ks : List Reg) : Vector Bool 16 := ks.foldl (fun v k => v.set k.val true k.isLt) (Vector.replicate 16 false)

/-- One Step answers a next state with the property. -/
def after (s : State) (p : State → Bool) : Bool :=
  match step s with
  | .next t => p t
  | .fault _ => false
  | .refused _ => false

/-- One event answers a next state with the property. -/
def afterEvent? (e : Event) (s : State) (p : State → Bool) : Bool :=
  match event e s with
  | .next t => p t
  | .fault _ => false
  | .refused _ => false

/-! ## Well-formedness: no term of `Instr` is ill-formed; the assembler form refuses a shift with Y set (R101) -/

theorem test_wellFormed_all (i : Instr) : i.wellFormed = true := by cases i <;> rfl

theorem test_assemblerForm_refuses_shr : Instr.assemblerForm (.shrVx 1 2) = false := by decide

theorem test_assemblerForm_refuses_shl : Instr.assemblerForm (.shlVx 1 2) = false := by decide

/-! ## Decoding: every constructor, by a word written out bit by bit from R95 -/

theorem test_decode_cls : decode 0b0000000011100000 = .ok (.cls) := by decide

theorem test_decode_ret : decode 0b0000000011101110 = .ok (.ret) := by decide

theorem test_decode_jpNnn : decode 0b0001101010111100 = .ok (.jpNnn 0xABC) := by decide

theorem test_decode_callNnn : decode 0b0010001000010000 = .ok (.callNnn 0x210) := by decide

theorem test_decode_seVxNn : decode 0b0011101001000010 = .ok (.seVxNn 10 0x42) := by decide

theorem test_decode_sneVxNn : decode 0b0100101001000010 = .ok (.sneVxNn 10 0x42) := by decide

theorem test_decode_seVxVy : decode 0b0101000100100000 = .ok (.seVxVy 1 2) := by decide

theorem test_decode_ldVxNn : decode 0b0110000000000101 = .ok (.ldVxNn 0 0x05) := by decide

theorem test_decode_addVxNn : decode 0b0111111100000001 = .ok (.addVxNn 15 0x01) := by decide

theorem test_decode_ldVxVy : decode 0b1000000100100000 = .ok (.ldVxVy 1 2) := by decide

theorem test_decode_orVxVy : decode 0b1000000100100001 = .ok (.orVxVy 1 2) := by decide

theorem test_decode_andVxVy : decode 0b1000000100100010 = .ok (.andVxVy 1 2) := by decide

theorem test_decode_xorVxVy : decode 0b1000000100100011 = .ok (.xorVxVy 1 2) := by decide

theorem test_decode_addVxVy : decode 0b1000101010110100 = .ok (.addVxVy 10 11) := by decide

theorem test_decode_subVxVy : decode 0b1000000100100101 = .ok (.subVxVy 1 2) := by decide

theorem test_decode_shrVx : decode 0b1000000100100110 = .ok (.shrVx 1 2) := by decide

theorem test_decode_subnVxVy : decode 0b1000000100100111 = .ok (.subnVxVy 1 2) := by decide

theorem test_decode_shlVx : decode 0b1000000100101110 = .ok (.shlVx 1 2) := by decide

theorem test_decode_sneVxVy : decode 0b1001000100100000 = .ok (.sneVxVy 1 2) := by decide

theorem test_decode_ldINnn : decode 0b1010000100100011 = .ok (.ldINnn 0x123) := by decide

theorem test_decode_jpV0Nnn : decode 0b1011001100000000 = .ok (.jpV0Nnn 0x300) := by decide

theorem test_decode_rndVxNn : decode 0b1100000000001111 = .ok (.rndVxNn 0 0x0F) := by decide

theorem test_decode_drwVxVyN : decode 0b1101011110100011 = .ok (.drwVxVyN 7 10 3) := by decide

theorem test_decode_skpVx : decode 0b1110000110011110 = .ok (.skpVx 1) := by decide

theorem test_decode_sknpVx : decode 0b1110000110100001 = .ok (.sknpVx 1) := by decide

theorem test_decode_ldVxDt : decode 0b1111000100000111 = .ok (.ldVxDt 1) := by decide

theorem test_decode_ldVxK : decode 0b1111001100001010 = .ok (.ldVxK 3) := by decide

theorem test_decode_ldDtVx : decode 0b1111000100010101 = .ok (.ldDtVx 1) := by decide

theorem test_decode_ldStVx : decode 0b1111000100011000 = .ok (.ldStVx 1) := by decide

theorem test_decode_addIVx : decode 0b1111000100011110 = .ok (.addIVx 1) := by decide

theorem test_decode_ldFVx : decode 0b1111000100101001 = .ok (.ldFVx 1) := by decide

theorem test_decode_ldBVx : decode 0b1111000000110011 = .ok (.ldBVx 0) := by decide

theorem test_decode_ldMemVx : decode 0b1111001001010101 = .ok (.ldMemVx 2) := by decide

theorem test_decode_ldVxMem : decode 0b1111001001100101 = .ok (.ldVxMem 2) := by decide

/-- The words X1 to X6 are no instructions (R97). -/
theorem test_decode_unknown_low : ([0x0000, 0x00E1, 0x00EF, 0x0123, 0x0EE0, 0x00FE] : List Word).all
    (fun w => decode w == .error (.unknownOpcode w)) = true := by decide

/-- The words X7 to X12 are no instructions (R97). -/
theorem test_decode_unknown_middle : ([0x5121, 0x512F, 0x8008, 0x8009, 0x800A, 0x800F] : List Word).all
    (fun w => decode w == .error (.unknownOpcode w)) = true := by decide

/-- The words X13 to X18 are no instructions (R97). -/
theorem test_decode_unknown_keys : ([0x9121, 0xE19F, 0xE1A0, 0xE000, 0xF117, 0xF100] : List Word).all
    (fun w => decode w == .error (.unknownOpcode w)) = true := by decide

/-- The words X19 to X23 are no instructions (R97). -/
theorem test_decode_unknown_top : ([0xF11A, 0xF175, 0xF185, 0xFFFF, 0xF1FF] : List Word).all
    (fun w => decode w == .error (.unknownOpcode w)) = true := by decide

/-- What the looser dispatcher makes of X1, X5, X7, X17 and X19 (section 2.8). -/
theorem test_decode_loose : decodeWith true 0x0000 = .ok .cls ∧ decodeWith true 0x0EE0 = .ok .cls ∧
    decodeWith true 0x5121 = .ok (.seVxVy 1 2) ∧ decodeWith true 0xF117 = .ok (.ldVxDt 1) ∧
    decodeWith true 0xF11A = .ok (.ldVxK 1) := by decide

/-- There are 34 rows (R95). -/
theorem test_row_count : opcodeRows.length = 34 := by decide

/-! ## Single Steps -/

/-- D2 (R170). -/
theorem test_cls_clears : after ({ at_ 0x00E0 with fb := Vector.replicate 32 0xFF }) (fun t => t.pixel 0 0 == false && t.pixel 7 31 == false && t.redraw && t.pc == 0x202) = true := by decide

/-- J2 (R120). -/
theorem test_ret_pops_last_entry : after ({ at_ 0x00EE with stack := (Vector.replicate 16 0).set 15 0x0ABC, sp := 16 }) (fun t => t.sp == 15 && t.pc == 0x0ABE) = true := by decide

/-- J3 (R204): the fault is taken, pc stays. -/
theorem test_ret_underflows : after (at_ 0x00EE) (fun t => t.run == .faulted (.stackUnderflow 0x0200) && t.pc == 0x0200) = true := by decide

/-- J5 (R121). -/
theorem test_jp_takes_odd_target : after (at_ 0x1201) (fun t => t.pc == 0x0201) = true := by decide

/-- J9 (R122). -/
theorem test_call_pushes_own_address : after ({ at_ 0x2300 with sp := 15 }) (fun t => t.stack[15] == 0x0200 && t.sp == 16 && t.pc == 0x0300) = true := by decide

/-- J10 (R203). -/
theorem test_call_overflows : after ({ at_ 0x2300 with sp := 16 }) (fun t => t.run == .faulted (.stackOverflow 0x0200) && t.sp == 16) = true := by decide

/-- K1 (R130). -/
theorem test_seVxNn_skips : after ((at_ 0x3A42).setReg 10 0x42) (fun t => t.pc == 0x0204) = true := by decide

/-- K2 (R130). -/
theorem test_seVxNn_falls_through : after ((at_ 0x3A42).setReg 10 0x41) (fun t => t.pc == 0x0202) = true := by decide

/-- K4 (R131). -/
theorem test_sneVxNn_falls_through : after ((at_ 0x4A42).setReg 10 0x42) (fun t => t.pc == 0x0202) = true := by decide

/-- K5 (R131). -/
theorem test_sneVxNn_skips : after ((at_ 0x4A42).setReg 10 0x41) (fun t => t.pc == 0x0204) = true := by decide

/-- K6 (R132). -/
theorem test_seVxVy_skips : after (((at_ 0x5120).setReg 1 7).setReg 2 7) (fun t => t.pc == 0x0204) = true := by decide

/-- K7 (R132). -/
theorem test_seVxVy_falls_through : after (((at_ 0x5120).setReg 1 7).setReg 2 8) (fun t => t.pc == 0x0202) = true := by decide

/-- A2 (R140). -/
theorem test_ldVxNn_loads_flag : after (at_ 0x6FAB) (fun t => t.reg 15 == 0xAB && t.pc == 0x0202) = true := by decide

/-- A3 (R141). -/
theorem test_addVxNn_no_carry : after ((at_ 0x70FF).setReg 0 0x01) (fun t => t.reg 0 == 0x00 && t.reg 15 == 0) = true := by decide

/-- A5 (R141). -/
theorem test_addVxNn_wraps_flag : after ((at_ 0x7F01).setReg 15 0xFF) (fun t => t.reg 15 == 0x00) = true := by decide

/-- A6 (R142). -/
theorem test_ldVxVy_copies : after ((at_ 0x8120).setReg 2 0x7B) (fun t => t.reg 1 == 0x7B && t.reg 2 == 0x7B) = true := by decide

/-- A7 (R143). -/
theorem test_or_keeps_flag : after ((((at_ 0x8121).setReg 1 0xF0).setReg 2 0x0F).setReg 15 1) (fun t => t.reg 1 == 0xFF && t.reg 15 == 1) = true := by decide

/-- A8 (R144). -/
theorem test_and : after (((at_ 0x8122).setReg 1 0xF0).setReg 2 0x3C) (fun t => t.reg 1 == 0x30) = true := by decide

/-- A9 (R145). -/
theorem test_xor : after (((at_ 0x8123).setReg 1 0xF0).setReg 2 0x3C) (fun t => t.reg 1 == 0xCC) = true := by decide

/-- S2 (R146), an example of the source. -/
theorem test_add_carries : after (((at_ 0x8124).setReg 1 0xFF).setReg 2 0x01) (fun t => t.reg 1 == 0x00 && t.reg 15 == 1) = true := by decide

/-- A15 (R146, R153). -/
theorem test_add_into_flag : after (((at_ 0x8F14).setReg 15 0x10).setReg 1 0x20) (fun t => t.reg 15 == 0x30) = true := by decide

/-- S4 (R147), an example of the source. -/
theorem test_sub_borrows : after (((at_ 0x8125).setReg 1 0x01).setReg 2 0x02) (fun t => t.reg 1 == 0xFF && t.reg 15 == 0) = true := by decide

/-- A24 (R147, R153). -/
theorem test_sub_of_flag : after (((at_ 0x81F5).setReg 1 0x05).setReg 15 0x09) (fun t => t.reg 15 == 0 && t.reg 1 == 0x05) = true := by decide

/-- A31 (R148). -/
theorem test_shr_in_place : after (((at_ 0x8126).setReg 1 0x05).setReg 2 0xAA) (fun t => t.reg 1 == 0x02 && t.reg 2 == 0xAA && t.reg 15 == 1) = true := by decide

/-- A32 (R148, R153). -/
theorem test_shr_of_flag : after ((at_ 0x8F06).setReg 15 0x03) (fun t => t.reg 15 == 0x00) = true := by decide

/-- A35 (R149). -/
theorem test_subn_borrows : after (((at_ 0x8127).setReg 1 0x05).setReg 2 0x02) (fun t => t.reg 1 == 0xFD && t.reg 15 == 0) = true := by decide

/-- A40 (R149, R153). -/
theorem test_subn_of_flag : after (((at_ 0x81F7).setReg 1 0x0A).setReg 15 0x0B) (fun t => t.reg 15 == 1 && t.reg 1 == 0xF7) = true := by decide

/-- A46 (R150). -/
theorem test_shl_in_place : after (((at_ 0x812E).setReg 1 0x81).setReg 2 0x55) (fun t => t.reg 1 == 0x02 && t.reg 2 == 0x55 && t.reg 15 == 1) = true := by decide

/-- A47 (R150, R153). -/
theorem test_shl_of_flag : after ((at_ 0x8F0E).setReg 15 0x80) (fun t => t.reg 15 == 0x02) = true := by decide

/-- K9 (R133). -/
theorem test_sneVxVy_skips : after (((at_ 0x9120).setReg 1 7).setReg 2 8) (fun t => t.pc == 0x0204) = true := by decide

/-- K11 (R133). -/
theorem test_sneVxVy_same_register : after ((at_ 0x9110).setReg 1 9) (fun t => t.pc == 0x0202) = true := by decide

/-- M2 (R160). -/
theorem test_ldINnn_clears_top : after ((at_ 0xAFFF).setIndex 0x1234) (fun t => t.index == 0x0FFF) = true := by decide

/-- J13 (R123). -/
theorem test_jpV0Nnn_beyond_memory : after ((at_ 0xBFFF).setReg 0 0xFF) (fun t => t.pc == 0x10FE && t.run == .running) = true := by decide

/-- D4 (R171, R173). -/
theorem test_drw_bit_and_row_order : after (((at_ 0xD002).setIndex 0x300).storeBytes 0x300 [0x80, 0x01]) (fun t => t.pixel 0 0 && t.pixel 7 1 && !t.pixel 1 0 && !t.pixel 0 1 && t.reg 15 == 0 && t.redraw) = true := by decide

/-- The second Step of D13 (R171). -/
theorem test_drw_collides : after ({ ((at_ 0xD001).setIndex 0x300).storeBytes 0x300 [0x60] with fb := (Vector.replicate 32 0).set 0 0x3 }) (fun t => t.pixel 0 0 && !t.pixel 1 0 && t.pixel 2 0 && t.reg 15 == 1) = true := by decide

/-- T1 (R180). -/
theorem test_skp_skips : after ({ (at_ 0xE19E).setReg 1 5 with keys := keysDown [5] }) (fun t => t.pc == 0x0204) = true := by decide

/-- T3 (R206). -/
theorem test_skp_index_not_masked : after ({ (at_ 0xE19E).setReg 1 0x10 with keys := keysDown [0] }) (fun t => t.run == .faulted (.keyIndexOutOfRange 0x10) && t.pc == 0x0200) = true := by decide

/-- T6 (R181). -/
theorem test_sknp_skips : after ((at_ 0xE1A1).setReg 1 5) (fun t => t.pc == 0x0204) = true := by decide

/-- T7 (R181). -/
theorem test_sknp_falls_through : after ({ (at_ 0xE1A1).setReg 1 15 with keys := keysDown [15] }) (fun t => t.pc == 0x0202) = true := by decide

/-- T14 (R183). -/
theorem test_ldVxDt_reads : after ((at_ 0xF107).setDt 0x2A) (fun t => t.reg 1 == 0x2A && t.dt == 0x2A) = true := by decide

/-- T9 (R182). -/
theorem test_ldVxK_waits : after ((at_ 0xF30A).setReg 3 0x55) (fun t => t.pc == 0x0200 && t.reg 3 == 0x55 && t.run == .running) = true := by decide

/-- T13 (R182). -/
theorem test_ldVxK_takes_key : after ({ at_ 0xFF0A with keys := keysDown [15] }) (fun t => t.reg 15 == 0x0F && t.pc == 0x0202) = true := by decide

/-- T15 (R184). -/
theorem test_ldDtVx_writes : after ((at_ 0xF115).setReg 1 0x3C) (fun t => t.dt == 0x3C && t.st == 0) = true := by decide

/-- T17 (R185). -/
theorem test_ldStVx_writes : after ((at_ 0xF118).setReg 1 0x05) (fun t => t.st == 0x05 && t.dt == 0) = true := by decide

/-- M7 (R161). -/
theorem test_addIVx_widened_flag : after (((at_ 0xF11E).setIndex 0xFFFF).setReg 1 0x01) (fun t => t.index == 0x0000 && t.reg 15 == 1) = true := by decide

/-- M10 (R161, R153). -/
theorem test_addIVx_of_flag : after (((at_ 0xFF1E).setIndex 0x0FF0).setReg 15 0x20) (fun t => t.index == 0x0FF1 && t.reg 15 == 1) = true := by decide

/-- M16 (R162). -/
theorem test_ldFVx_not_masked : after ((at_ 0xF129).setReg 1 0x67) (fun t => t.index == 0x0203) = true := by decide

/-- M18 (R163). -/
theorem test_ldBVx_digits : after (((at_ 0xF033).setReg 0 254).setIndex 0x0300) (fun t => t.byte 0x300 == 2 && t.byte 0x301 == 5 && t.byte 0x302 == 4 && t.index == 0x0300) = true := by decide

/-- M24 (R163, R205): nothing is written. -/
theorem test_ldBVx_out_of_memory : after (((at_ 0xF033).setReg 0 123).setIndex 0x0FFE) (fun t => t.run == .faulted (.memoryOutOfBounds 0x1000 .write) && t.byte 0xFFE == 0 && t.byte 0xFFF == 0) = true := by decide

/-- M26 (R164). -/
theorem test_ldMemVx_stores_block : after (((((((at_ 0xF255).setReg 0 1).setReg 1 2).setReg 2 3).setReg 3 9).setIndex 0x0300)) (fun t => t.byte 0x300 == 1 && t.byte 0x302 == 3 && t.byte 0x303 == 0 && t.index == 0x0303) = true := by decide

/-- M27 (R164). -/
theorem test_ldMemVx_at_the_top : after (((at_ 0xF055).setReg 0 9).setIndex 0x0FFF) (fun t => t.byte 0xFFF == 9 && t.index == 0x1000 && t.run == .running) = true := by decide

/-- M33 (R165). -/
theorem test_ldVxMem_loads_block : after ((((at_ 0xFF65).setIndex 0x0FF0).storeBytes 0xFF0 [0xCD]).storeBytes 0xFFF [0xAB]) (fun t => t.reg 0 == 0xCD && t.reg 14 == 0 && t.reg 15 == 0xAB && t.index == 0x1000) = true := by decide

/-- M35 (R165, R205). -/
theorem test_ldVxMem_out_of_memory : after ((at_ 0xF065).setIndex 0x1234) (fun t => t.run == .faulted (.memoryOutOfBounds 0x1234 .read) && t.index == 0x1234) = true := by decide

/-- E2 (R91). -/
theorem test_fetch_last_word : after ((State.reset.setPc 0x0FFE).withFetchWord 16 0x6007) (fun t => t.reg 0 == 7 && t.pc == 0x1000) = true := by decide

/-- E3 (R91, R205). -/
theorem test_fetch_past_the_end : after (State.reset.setPc 0x0FFF) (fun t => t.run == .faulted (.memoryOutOfBounds 0x0FFF .fetch) && t.pc == 0x0FFF) = true := by decide

/-- The second Step of J14 (R64). -/
theorem test_fetch_odd_address : after ((State.reset.setPc 0x0203).storeBytes 0x0203 [0x6A, 0x07]) (fun t => t.reg 10 == 0x07 && t.pc == 0x0205) = true := by decide

/-- E6 (R242, R97). -/
theorem test_boot_without_rom : after (State.reset) (fun t => t.run == .faulted (.unknownOpcode 0x0000) && t.pc == 0x0200) = true := by decide

/-- A50 (R151): whatever byte is drawn, NN = 0 gives 0. -/
theorem test_rnd_masks : ∃ t, step (at_ 0xC000) = .next t ∧ t.reg 0 = 0 :=
  ⟨_, rfl, by
    show (Config.freeByte 0 &&& (0 : Byte)) = 0
    simp⟩

/-- A52 (R151): NN = 0xF0 leaves the low nibble 0 for every byte drawn. -/
theorem test_rnd_low_nibble : ∃ t, step (at_ 0xC0F0) = .next t ∧ t.reg 0 &&& 0x0F = 0 :=
  ⟨_, rfl, by
    show (Config.freeByte 0 &&& (0xF0 : Byte)) &&& 0x0F = 0
    generalize Config.freeByte _ = r
    revert r; decide⟩

/-! ## Events -/

/-- T18 (R213): a tick lowers both counters. -/
theorem test_tick : afterEvent? .timerTick { State.reset with dt := 2, st := 1 }
    (fun t => t.dt == 1 && t.st == 0) = true := by decide

/-- T18 (R213): a counter at 0 does not wrap. -/
theorem test_tick_stops : afterEvent? .timerTick { State.reset with dt := 1, st := 0 }
    (fun t => t.dt == 0 && t.st == 0) = true := by decide

/-- T20 (R216). -/
theorem test_setKeys : afterEvent? (.setKeys (keysDown [5])) State.reset (fun t => t.keys[5] && !t.keys[4]) = true := by
  decide

/-- T21 (R217). -/
theorem test_redrawAck : afterEvent? .redrawAck { State.reset with redraw := true } (fun t => !t.redraw) = true := by
  decide

/-- E12 (R241): an odd number of bytes. -/
theorem test_loadRom : afterEvent? (.loadRom [0x60, 0x05, 0x00]) State.reset
    (fun t => t.byte 0x200 == 0x60 && t.byte 0x201 == 0x05 && t.byte 0x203 == 0) = true := by decide

/-- E8 (R240): Boot leaves the Faulted status. -/
theorem test_boot_after_fault : afterEvent? .boot { State.reset with run := .faulted (.unknownOpcode 0), dt := 5 }
    (fun t => t.run == .running && t.dt == 0) = true := by decide

/-- Glyph A of the default FONTSET (R240, log 2) stands at 0x32. -/
theorem test_font_glyph : State.reset.mem.readBytes State.reset.fontset 0x32 5 = [0xF0, 0x90, 0xF0, 0x90, 0x90] := by decide

/-- R240: a machine with another FONTSET has its bytes in [0, 80) and 0 above, and Boot puts them back. -/
theorem test_other_font : afterEvent? .boot ((State.resetWith (Vector.replicate 80 0xA5)).storeBytes 79 [1, 2])
    (fun t => t.byte 79 == 0xA5 && t.byte 80 == 0) = true := by decide

/-- `decodeTableWord` and `withFetchWord` number the bits as the table does. -/
theorem test_tableWord : decodeTableWord 16 0x8AB4 = some (.addVxVy 10 11) ∧
    (at_ 0x1234).byte 0x200 = 0x12 ∧ (at_ 0x1234).byte 0x201 = 0x34 := by decide

/-! ## Witnesses: states and operands that meet the hypotheses of the statements -/

/-- FetchReadsBigEndianWord: the last word, and an odd address. -/
theorem witness_fetch_in_range : (State.reset.setPc 4094).pc.toNat ≤ 4094 ∧ (State.reset.setPc 0x203).pc.toNat ≤ 4094 := by decide

/-- FetchReadsBigEndianWord: the first pc out of range. -/
theorem witness_fetch_outside : 4094 < (State.reset.setPc 4095).pc.toNat ∧ (State.reset.setPc 4095).run = .running := by decide

/-- StepRunsDecodedInstruction, FaultedIgnoresAllButBoot, TimerTickCountsDown: a faulted state. -/
theorem witness_step_faulted : ({ State.reset with run := .faulted (.unknownOpcode 0) } : State).run = .faulted (.unknownOpcode 0) := rfl

/-- StepRunsDecodedInstruction: a fault of the fetch. -/
theorem witness_step_fetch_fault : fetch (State.reset.setPc 4095) = .error (.memoryOutOfBounds 4095 .fetch) := rfl

/-- StepRunsDecodedInstruction, UnknownWordFaults: a word that does not decode. -/
theorem witness_step_decode_fault : fetch State.reset = .ok 0 ∧ decode 0 = .error (.unknownOpcode 0) := ⟨rfl, rfl⟩

/-- StepRunsDecodedInstruction: bytes that decode. -/
theorem witness_step_decodes : (at_ 0x6005).run = .running ∧ (at_ 0x6005).pc.toNat ≤ 4094 ∧ Instr.wellFormed (.ldVxNn 0 5) = true ∧
    decodeBytes [(at_ 0x6005).byte 0x200, (at_ 0x6005).byte 0x201] = .ok (.ldVxNn 0 5, []) := by decide

/-- UnknownWordFaults. -/
theorem witness_unknown_word : State.reset.run = .running ∧ ∀ r ∈ opcodeRows, (0 : Word) &&& r.mask ≠ r.value := by decide

/-- FaultedIgnoresAllButBoot: a session without Boot. -/
theorem witness_faulted_session : Event.boot ∉ [Event.step, .timerTick, .redrawAck, .loadRom (List.replicate 3 0), .setKeys (keysDown [1])] := by decide

/-- StepFaultsArePrecise, TimerTickCountsDown, SetKeysAndRedrawAck: a running state. -/
theorem witness_running : State.reset.run = .running := rfl

/-- FaultCausesAreThoseListed and CallPushesItsAddress: SP = 16. -/
theorem witness_cause_overflow : exec (.callNnn 0) ({ State.reset with sp := 16 }) = .next (({ State.reset with sp := 16 }).setRun (.faulted (.stackOverflow 0x200))) := rfl

/-- FaultCausesAreThoseListed and ReturnPopsAndAddsTwo: SP = 0. -/
theorem witness_cause_underflow : exec (.ret) (State.reset) = .next ((State.reset).setRun (.faulted (.stackUnderflow 0x200))) := rfl

/-- FaultCausesAreThoseListed and SpriteIsXoredOntoScreen: the first I at which 15 rows do not fit (D17). -/
theorem witness_cause_draw : exec (.drwVxVyN 0 0 15) (State.reset.setIndex 0xFF2) = .next ((State.reset.setIndex 0xFF2).setRun (.faulted (.memoryOutOfBounds 4096 .read))) := rfl

/-- FaultCausesAreThoseListed and BlockLoaded: the first I at which 16 bytes do not fit (M36). -/
theorem witness_cause_load : exec (.ldVxMem 15) (State.reset.setIndex 0xFF1) = .next ((State.reset.setIndex 0xFF1).setRun (.faulted (.memoryOutOfBounds 4096 .read))) := rfl

/-- FaultCausesAreThoseListed and DecimalDigitsStored: the first I at which 3 bytes do not fit (M24). -/
theorem witness_cause_digits : exec (.ldBVx 0) (State.reset.setIndex 0xFFE) = .next ((State.reset.setIndex 0xFFE).setRun (.faulted (.memoryOutOfBounds 4096 .write))) := rfl

/-- FaultCausesAreThoseListed and BlockStored: the first I at which 16 bytes do not fit (M30). -/
theorem witness_cause_store : exec (.ldMemVx 15) (State.reset.setIndex 0xFF1) = .next ((State.reset.setIndex 0xFF1).setRun (.faulted (.memoryOutOfBounds 4096 .write))) := rfl

/-- FaultCausesAreThoseListed and KeySkips: the first index out of range. -/
theorem witness_cause_key : exec (.skpVx 1) (State.reset.setReg 1 16) = .next ((State.reset.setReg 1 16).setRun (.faulted (.keyIndexOutOfRange 16))) := rfl

/-- FaultCausesAreThoseListed and KeySkips, for EXA1. -/
theorem witness_cause_key_not : exec (.sknpVx 1) (State.reset.setReg 1 16) = .next ((State.reset.setReg 1 16).setRun (.faulted (.keyIndexOutOfRange 16))) := rfl

/-- DecodeEncodeRoundTrip. -/
theorem witness_wellFormed : Instr.wellFormed (.drwVxVyN 15 15 15) = true := by decide

/-- EncodeOfDecodedWord and LooseDecodingExtendsExact. -/
theorem witness_decodes : decode 0xDFFF = .ok (.drwVxVyN 15 15 15) := by decide

/-- CallPushesItsAddress (both clauses at their boundary) and CallThenReturnResumes. -/
theorem witness_call_depth : ({ State.reset with sp := 15 } : State).sp.val < 16 ∧ ({ State.reset with sp := 16 } : State).sp.val = 16 := by decide

/-- ReturnPopsAndAddsTwo: the last and the first live entry, and none. -/
theorem witness_return_depth : ({ State.reset with sp := 16 } : State).sp.val = (15 : Fin 16).val + 1 ∧ ({ State.reset with sp := 1 } : State).sp.val = (0 : Fin 16).val + 1 ∧
    State.reset.sp.val = 0 := by decide

/-- SubWritesFlagThenDifference: a borrow. -/
theorem witness_sub_flag : (0 : Byte) = (if ((State.reset.setReg 2 1).reg 1).toNat < ((State.reset.setReg 2 1).reg 2).toNat then 0 else 1) := by decide

/-- SubnWritesFlagThenDifference: a borrow. -/
theorem witness_subn_flag : (0 : Byte) = (if ((State.reset.setReg 1 1).reg 1).toNat > ((State.reset.setReg 1 1).reg 2).toNat then 0 else 1) := by decide

/-- AddIndexFlagsAndWraps: the first I beyond the range. -/
theorem witness_index_flag : (1 : Byte) = (if (State.reset.setIndex 0x1000).index.toNat + ((State.reset.setIndex 0x1000).reg 1).toNat > 0xFFF then 1 else 0) := by decide

/-- DecimalDigitsStored: the last I that fits and the first that does not. -/
theorem witness_digits_fit : (State.reset.setIndex 4093).Canonical ∧ (State.reset.setIndex 4093).index.toNat + 2 ≤ 4095 ∧
    4095 < (State.reset.setIndex 4094).index.toNat + 2 := ⟨rfl, by decide, by decide⟩

/-- BlockStored and BlockLoaded: sixteen registers and one register at the top of memory, and one too far. -/
theorem witness_block_fits : (State.reset.setIndex 0xFF0).Canonical ∧ (State.reset.setIndex 0xFF0).index.toNat + (15 : Reg).val ≤ 4095 ∧
    (State.reset.setIndex 0xFFF).index.toNat + (0 : Reg).val ≤ 4095 ∧ 4095 < (State.reset.setIndex 0xFF1).index.toNat + (15 : Reg).val := ⟨rfl, by decide, by decide, by decide⟩

/-- StoreThenLoadReturnsRegisters. -/
theorem witness_store_then_load : ∃ t : State, exec (.ldMemVx 15) (State.reset.setIndex 0xFF0) = .next t ∧ (∀ a, (t.setIndex 0xFF0).byte a = t.byte a) ∧
    (t.setIndex 0xFF0).index = (State.reset.setIndex 0xFF0).index := ⟨_, rfl, fun _ => rfl, rfl⟩

/-- FetchSeesStoredBlock: V[0] and V[1] stored right behind the FX55. -/
theorem witness_fetch_sees : ∃ t : State, exec (.ldMemVx 1) ((State.reset.setIndex 0x300).setPc 0x2FE) = .next t ∧ (1 : Reg).val = (0 : Reg).val + 1 ∧
    t.pc.toNat = ((State.reset.setIndex 0x300).setPc 0x2FE).index.toNat + (0 : Reg).val ∧ ((State.reset.setIndex 0x300).setPc 0x2FE).Canonical := ⟨_, rfl, rfl, rfl, rfl⟩

/-- SpriteIsXoredOntoScreen (D16, D17): the last I that fits, no rows, the first I that does not. -/
theorem witness_sprite_fits : (State.reset.setIndex 0xFF1).index.toNat + (15 : Fin 16).val ≤ 4096 ∧ (0 : Fin 16).val = 0 ∧
    4096 < (State.reset.setIndex 0xFF2).index.toNat + (15 : Fin 16).val ∧ (15 : Fin 16).val ≠ 0 := by decide

/-- DrawTwiceRestores: glyph 0. -/
theorem witness_draw_twice : (1 : Reg) ≠ flagReg ∧ (2 : Reg) ≠ flagReg ∧ (State.reset.setIndex 0).index.toNat + (5 : Fin 16).val ≤ 4096 := by decide

/-- KeySkips: the last index in range and the first out of it. -/
theorem witness_key_index : ((State.reset.setReg 1 15).reg 1).toNat = (15 : Fin 16).val ∧ 15 < ((State.reset.setReg 1 16).reg 1).toNat := by decide

/-- WaitForKey: no key. -/
theorem witness_keys_none : ∀ k : Fin 16, State.reset.keys[k] = false := by decide

/-- WaitForKey: two keys. -/
theorem witness_keys_some : ∃ k : Fin 16, (keysDown [3, 7])[k] = true := ⟨7, by decide⟩

/-- LoadRomCopiesOrRefuses: the longest accepted and the shortest refused (E9, E10). -/
theorem witness_rom_lengths : State.reset.Canonical ∧ (List.replicate 3232 (0 : Byte)).length ≤ 3232 ∧ 3232 < (List.replicate 3233 (0 : Byte)).length := ⟨rfl, by rw [List.length_replicate], by rw [List.length_replicate]; decide⟩

/-- InstructionsWriteOnlyTheirParts, InstructionsWriteOnlyTheirRegisters, OtherInstructionsAdvanceByTwo. -/
theorem witness_exec_next : ∃ t, exec (.addVxVy 1 2) State.reset = .next t ∧ mayWriteReg (.addVxVy 1 2) 3 = false ∧ t.run = .running ∧
    State.reset.run = .running ∧ steersPc (.addVxVy 1 2) = false := ⟨_, rfl, rfl, rfl, rfl, rfl⟩

/-- StoresStayInTheirSpan. -/
theorem witness_byte_changes : ∃ t, exec (.ldBVx 0) ((State.reset.setReg 0 254).setIndex 0x300) = .next t ∧
    t.byte 0x301 ≠ ((State.reset.setReg 0 254).setIndex 0x300).byte 0x301 := ⟨_, rfl, by decide⟩

/-- StepChangesTimersOnlyByStores, for DT. -/
theorem witness_dt_changes : ∃ t, step ((at_ 0xF115).setReg 1 1) = .next t ∧ t.dt ≠ ((at_ 0xF115).setReg 1 1).dt := ⟨_, rfl, by decide⟩

/-- StepChangesTimersOnlyByStores, for ST. -/
theorem witness_st_changes : ∃ t, step ((at_ 0xF118).setReg 1 1) = .next t ∧ t.st ≠ ((at_ 0xF118).setReg 1 1).st := ⟨_, rfl, by decide⟩

/-- StepOnlySetsRedrawFlag: the flag changes. -/
theorem witness_redraw_set : ∃ t, step (at_ 0x00E0) = .next t ∧ t.redraw ≠ (at_ 0x00E0).redraw := ⟨_, rfl, by decide⟩

/-- StepOnlySetsRedrawFlag: the flag is set before. -/
theorem witness_redraw_stays : ∃ t, step { at_ 0x6005 with redraw := true } = .next t := ⟨_, rfl⟩

/-- StepKeepsMemoryCanonical, StepKeepsPcInRange, SessionsKeepInvariants. -/
theorem witness_invariants : (at_ 0x2210).Canonical ∧ (at_ 0x2210).PcInRange ∧ ∃ t, step (at_ 0x2210) = .next t := ⟨rfl, ⟨by decide, fun _ hk => absurd hk (Nat.not_lt_zero _)⟩, _, rfl⟩

/-- FreeBytesAreDrawnOnce: an event that draws. -/
theorem witness_free_byte_event : ∃ t, event .step (at_ 0xC0FF) = .next t := ⟨_, rfl⟩

end Sys2Proof.Tests
end

section
/-! PROOFS. Rules for what every next state of an outcome satisfies: one for each shared operation in which instructions
end, one for an event, and the induction over a session. -/

namespace Sys2Proof.Machine

/-- If the outcome is a next state, that state satisfies `P`. -/
def NextSatisfies (P : State → Prop) (o : Outcome) : Prop := ∀ t, o = .next t → P t

variable {P : State → Prop} {s : State}

theorem nextSatisfies_next {t : State} (h : P t) : NextSatisfies P (.next t) := by
  intro u hu
  cases hu
  exact h

theorem nextSatisfies_raise {c : Cause} (h : P (s.setRun (.faulted c))) : NextSatisfies P (raise c s) :=
  nextSatisfies_next h

theorem nextSatisfies_guardSpan {base n : Nat} {kind : Access} {t : State} (hnext : P t)
    (hfault : ∀ c, P (s.setRun (.faulted c))) : NextSatisfies P (guardSpan base n kind s t) := by
  obtain ⟨-, h⟩ | h := guardSpan_cases base n kind s t
  · exact h ▸ nextSatisfies_next hnext
  · exact h ▸ nextSatisfies_raise (hfault _)

theorem nextSatisfies_settle_map {r : Except Cause State} {f : State → State} (hok : ∀ t, r = .ok t → P (f t))
    (hfault : ∀ c, P (s.setRun (.faulted c))) : NextSatisfies P (settle s (r.map f)) := by
  cases r with
  | ok t => exact nextSatisfies_next (hok t rfl)
  | error c => exact nextSatisfies_raise (hfault c)

theorem nextSatisfies_skipOnKey {x : Reg} {pressed : Bool} (hskip : ∀ c, P (s.skipIf c))
    (hfault : ∀ c, P (s.setRun (.faulted c))) : NextSatisfies P (skipOnKey x pressed s) := by
  unfold skipOnKey
  split
  · exact nextSatisfies_next (hskip _)
  · exact nextSatisfies_raise (hfault _)

/-- FX0A waits in the same state, or goes on with some key (R182). -/
theorem nextSatisfies_execLdVxK {x : Reg} (hwait : P s) (hkey : ∀ b, P (s.setReg x b).drawn.advance) :
    NextSatisfies P (execLdVxK x s) := by
  unfold execLdVxK
  split
  · exact nextSatisfies_next hwait
  · exact nextSatisfies_next (hkey _)

/-- An event does what it does to a running machine, or nothing because Run is Faulted; Boot is the same in both. -/
theorem event_cases (e : Event) (s : State) :
    event e s = eventRunning e s ∨ ((∃ c, s.run = .faulted c) ∧ event e s = .next s) := by
  unfold event
  split
  · exact .inl rfl
  · next c hc =>
    cases e with
    | boot => exact .inl rfl
    | _ => exact .inr ⟨⟨c, hc⟩, rfl⟩

/-- The state after an event is the next state it answers, or else the state before it (R207). -/
theorem afterEvent_cases (e : Event) (s : State) : event e s = .next (afterEvent e s) ∨ afterEvent e s = s := by
  unfold afterEvent
  split
  · next h => exact .inl h
  · exact .inr rfl
  · exact .inr rfl

/-- What every event keeps, every session keeps. -/
theorem session_keeps (hevent : ∀ e s, P s → NextSatisfies P (event e s)) (es : List Event) (h : P s) :
    P (session es s) := by
  induction es generalizing s with
  | nil => exact h
  | cons e es ih =>
    apply ih
    obtain hnext | hsame := afterEvent_cases e s
    · exact hevent e s h _ hnext
    · exact hsame.symm ▸ h

end Sys2Proof.Machine
end

section
/-! PROOFS. The machine's FONTSET stays as it was (R5, D20): under every instruction, event and session. -/

namespace Sys2Proof.Machine

theorem State.push_fontset {s t : State} (h : s.push = .ok t) : t.fontset = s.fontset := by
  by_cases hsp : s.sp.val < 16
  · rw [State.push_ok hsp] at h; cases h; rfl
  · rw [State.push_full hsp] at h; cases h

theorem State.pop_fontset {s t : State} (h : s.pop = .ok t) : t.fontset = s.fontset := by
  by_cases hsp : s.sp.val = 0
  · rw [State.pop_empty hsp] at h; cases h
  · rw [State.pop_ok hsp] at h; cases h; rfl

/-- The instructions that can fault or wait, each by the rule of the operation it ends in; every other instruction
answers one next state, built by updates that leave the FONTSET. -/
theorem exec_keeps_fontset (i : Instr) (s : State) : NextSatisfies (Agree .fontset s) (exec i s) := by
  cases i with
  | ret => exact nextSatisfies_settle_map (fun _ => State.pop_fontset) fun _ => rfl
  | callNnn nnn => exact nextSatisfies_settle_map (fun _ => State.push_fontset) fun _ => rfl
  | drwVxVyN x y n => exact nextSatisfies_guardSpan (by simp [Agree]) fun _ => rfl
  | ldBVx x => exact nextSatisfies_guardSpan rfl fun _ => rfl
  | ldMemVx x => exact nextSatisfies_guardSpan rfl fun _ => rfl
  | ldVxMem x => exact nextSatisfies_guardSpan rfl fun _ => rfl
  | skpVx x => exact nextSatisfies_skipOnKey (fun _ => rfl) fun _ => rfl
  | sknpVx x => exact nextSatisfies_skipOnKey (fun _ => rfl) fun _ => rfl
  | ldVxK x => exact nextSatisfies_execLdVxK rfl fun _ => rfl
  | _ => exact nextSatisfies_next rfl

theorem step_keeps_fontset (s : State) : NextSatisfies (Agree .fontset s) (step s) := by
  intro t h
  obtain ⟨rfl, -⟩ | ⟨-, c, -, rfl⟩ | ⟨-, i, -, hi⟩ := step_cases h
  · rfl
  · rfl
  · exact exec_keeps_fontset i s t hi

theorem loadRom_keeps_fontset (bytes : List Byte) (s : State) :
    NextSatisfies (Agree .fontset s) (loadRom bytes s) := by
  unfold loadRom
  split
  · intro t h; cases h
  · exact nextSatisfies_next rfl

theorem eventRunning_keeps_fontset (e : Event) (s : State) :
    NextSatisfies (Agree .fontset s) (eventRunning e s) := by
  cases e with
  | loadRom bytes => exact loadRom_keeps_fontset bytes s
  | step => exact step_keeps_fontset s
  | boot => exact nextSatisfies_next rfl
  | setKeys keys => exact nextSatisfies_next rfl
  | timerTick => exact nextSatisfies_next rfl
  | redrawAck => exact nextSatisfies_next rfl

theorem event_keeps_fontset (e : Event) (s : State) : NextSatisfies (Agree .fontset s) (event e s) := by
  obtain h | ⟨-, h⟩ := event_cases e s
  · exact h ▸ eventRunning_keeps_fontset e s
  · exact h ▸ nextSatisfies_next rfl

/-- Settles O58, by induction over the session: every event, Boot included, answers with the FONTSET it found. -/
theorem sessionsKeepFontset : Obligations.SessionsKeepFontset := by
  intro es s
  have hevent (e : Event) (u : State) (hu : Agree .fontset s u) : NextSatisfies (Agree .fontset s) (event e u) :=
    fun t ht => (event_keeps_fontset e u t ht).trans hu
  exact session_keeps hevent es (rfl : Agree .fontset s s)

end Sys2Proof.Machine
end

section
/-! PROOFS. Boot (R34, R240): every element has its value of the table, from every state and for every FONTSET. -/

namespace Sys2Proof.Machine

/-! ### Reading the state after Boot -/

@[simp] theorem State.resetWith_reg (font : Fontset) (x : Reg) : (State.resetWith font).reg x = 0 :=
  Vector.getElem_replicate x.isLt

theorem State.resetWith_stack (font : Fontset) (k : Fin 16) : (State.resetWith font).stack[k] = 0 :=
  Vector.getElem_replicate k.isLt

theorem State.resetWith_keys (font : Fontset) (k : Fin 16) : (State.resetWith font).keys[k] = false :=
  Vector.getElem_replicate k.isLt

@[simp] theorem State.resetWith_pixel (font : Fontset) (x y : Nat) : (State.resetWith font).pixel x y = false := by
  by_cases h : y < 32
  · simp [State.pixel, State.resetWith, h]
  · exact State.pixel_outside _ x y fun hxy => h hxy.2

/-- Memory lists nothing after Boot, so every address reads as an unlisted one. -/
@[simp] theorem State.resetWith_byte (font : Fontset) (a : Nat) : (State.resetWith font).byte a = resetByte font a :=
  rfl

theorem State.resetWith_bootValues (font : Fontset) : (State.resetWith font).BootValues font := by
  have hfont (a : Fin 80) : (State.resetWith font).byte a.val = font[a] :=
    (State.resetWith_byte font a.val).trans (resetByte_font a.isLt)
  have habove (a : Nat) (ha : 80 ≤ a) : (State.resetWith font).byte a = 0 :=
    (State.resetWith_byte font a).trans (resetByte_above ha)
  exact ⟨State.resetWith_reg font, rfl, rfl, State.resetWith_stack font, rfl, rfl, rfl,
    fun x y _ _ => State.resetWith_pixel font x y, rfl, State.resetWith_keys font, hfont,
    fun a ha _ => habove a ha, rfl⟩

/-! ### The Boot event -/

/-- Boot does the same to a Running and to a Faulted machine (R30). -/
theorem event_boot (s : State) : event .boot s = .next (boot s) := by
  unfold event
  split
  · rfl
  · rfl

/-- The table of R34 does not speak of the model's count of draws, the one field in which Boot differs from the reset
state of the machine's FONTSET. -/
theorem boot_bootValues (s : State) : (boot s).BootValues s.fontset := State.resetWith_bootValues s.fontset

/-- Settles O1: every element of the reset state is read off, for any FONTSET; the default one is an instance. -/
theorem resetHasBootValues : Obligations.ResetHasBootValues :=
  ⟨State.resetWith_bootValues, State.resetWith_bootValues defaultFontset⟩

/-- Settles O2: Boot answers the reset state of the machine's own FONTSET, up to the count of draws. -/
theorem bootFromAnyState : Obligations.BootFromAnyState :=
  fun s => ⟨boot s, event_boot s, boot_bootValues s⟩

end Sys2Proof.Machine
end

section
/-! PROOFS. Fetch, decode, execute (R91, R96, R103): each way in which a Step of a running machine can go, as a lemma
from its cause to what the Step answers. -/

namespace Sys2Proof

/-- The converse of `decode_of_no_row`: the decoder rejects only the words of no row (R96). -/
theorem no_row_of_decode_error {op : Word} {r : Reject} (h : decode op = .error r) :
    ∀ row ∈ opcodeRows, op &&& row.mask ≠ row.value := by
  intro row hrow hhit
  rw [decode_of_hits hrow hhit] at h
  cases h

theorem reject_eq_of_decode_error {op : Word} {r : Reject} (h : decode op = .error r) : r = .unknownOpcode op := by
  rw [decode_of_no_row (no_row_of_decode_error h)] at h
  cases h
  rfl

/-- Two bytes are decoded as their word, and nothing is left over. -/
theorem decode_of_decodeBytes_pair {hi lo : Byte} {i : Instr} (h : decodeBytes [hi, lo] = .ok (i, [])) :
    decode (wordOfBytes hi lo) = .ok i := by
  rw [decodeBytes] at h
  cases hd : decode (wordOfBytes hi lo) with
  | error r => rw [hd] at h; cases h
  | ok j => rw [hd] at h; cases h; rfl

namespace Machine

variable {s : State}

/-! ### The instruction of the Step -/

theorem nextInstr_of_fetch_error {c : Cause} (h : fetch s = .error c) : nextInstr s = .error c := by
  simp only [nextInstr, h]

theorem nextInstr_of_decode_error {op : Word} {r : Reject} (hf : fetch s = .ok op) (hd : decode op = .error r) :
    nextInstr s = .error (.unknownOpcode op) := by
  simp only [nextInstr, hf, hd, reject_eq_of_decode_error hd, rejectCause]

theorem nextInstr_of_decode_ok {op : Word} {i : Instr} (hf : fetch s = .ok op) (hd : decode op = .ok i) :
    nextInstr s = .ok i := by
  simp only [nextInstr, hf, hd]

/-! ### The Step of a running machine -/

theorem step_takesFault {c : Cause} (hrun : s.run = .running) (h : nextInstr s = .error c) :
    TakesFault c s (step s) := by
  simp only [step, hrun, h]
  exact raise_eq c s

theorem step_eq_exec {i : Instr} (hrun : s.run = .running) (h : nextInstr s = .ok i) : step s = exec i s := by
  simp only [step, hrun, h]

/-! ### The statements -/

/-- Settles O3: on either side of 4094 the fetch is known, and a fault of the fetch is what the Step takes. -/
theorem fetchReadsBigEndianWord : Obligations.FetchReadsBigEndianWord := by
  intro s
  constructor
  · exact fun hpc => ⟨_, fetch_ok hpc, wordOfBytes_toNat _ _⟩
  · exact fun hpc hrun => step_takesFault hrun (nextInstr_of_fetch_error (fetch_outside hpc))

/-- Settles O4: one lemma for each way the Step can go; in the last the bytes at pc are the word fetched. -/
theorem stepRunsDecodedInstruction : Obligations.StepRunsDecodedInstruction := by
  intro s
  refine ⟨fun c hc => step_faulted hc, fun c hrun hf => ?fetchFault, fun op r hrun hf hd => ?decodeFault,
    fun i hrun hpc _ hbytes => ?decoded⟩
  case fetchFault => exact step_takesFault hrun (nextInstr_of_fetch_error hf)
  case decodeFault => exact step_takesFault hrun (nextInstr_of_decode_error hf hd)
  case decoded =>
    exact step_eq_exec hrun (nextInstr_of_decode_ok (fetch_ok hpc) (decode_of_decodeBytes_pair hbytes))

/-- Settles O5: a word that no row selects is rejected by the decoder. -/
theorem unknownWordFaults : Obligations.UnknownWordFaults :=
  fun _ _ hrun hf hrows => step_takesFault hrun (nextInstr_of_decode_error hf (decode_of_no_row hrows))

end Machine
end Sys2Proof
end

section
/-! PROOFS. Frames: what a list of parts that may change says, update by update and for one update after another. -/

namespace Sys2Proof.Machine

variable {l : List Part} {s t u : State}

theorem agree_refl (p : Part) (s : State) : Agree p s s := by
  cases p with
  | regs | stack | keys | mem => exact fun _ => rfl
  | fb => exact fun _ _ => rfl
  | _ => exact rfl

theorem Agree.trans {p : Part} (hst : Agree p s t) (htu : Agree p t u) : Agree p s u := by
  cases p with
  | regs | stack | keys | mem => exact fun k => (htu k).trans (hst k)
  | fb => exact fun x y => (htu x y).trans (hst x y)
  | _ => exact Eq.trans htu hst

theorem Frame.trans (hst : Frame l s t) (htu : Frame l t u) : Frame l s u :=
  fun p hp => (hst p hp).trans (htu p hp)

theorem Frame.mono {l' : List Part} (h : Frame l s t) (hl : l ⊆ l') : Frame l' s t :=
  fun p hp => h p fun hmem => hp (hl hmem)

theorem frame_setPc (w : Word) (hpc : .pc ∈ l) : Frame l s (s.setPc w) := by
  intro p hp
  have hsame := agree_refl p s
  cases p with
  | pc => exact absurd hpc hp
  | _ => exact hsame

end Sys2Proof.Machine
end

section
/-! PROOFS. Control transfer (R120 to R122): what a push and a pop do to the stack, and 1NNN, 2NNN and 00EE from them. -/

namespace Sys2Proof.Machine

variable {s t : State}

/-! ### The call stack -/

/-- With a free entry a push writes pc to it and counts it as live. -/
theorem State.push_spec (h : s.sp.val < 16) : ∃ t, s.push = .ok t ∧ t.sp.val = s.sp.val + 1 ∧
    (∀ k : Fin 16, t.stack[k] = if k.val = s.sp.val then s.pc else s.stack[k]) ∧ Frame [.stack, .sp] s t := by
  refine ⟨_, State.push_ok h, rfl, fun k => ?entry, fun p hp => ?frame⟩
  case entry => simp [Vector.getElem_set, eq_comm]
  case frame =>
    have hsame := agree_refl p s
    cases p with
    | stack | sp => simp at hp
    | _ => exact hsame

/-- With a live entry a pop loads pc from the last one, no longer counts it as live, and leaves it in place. -/
theorem State.pop_spec {k : Fin 16} (h : s.sp.val = k.val + 1) : ∃ t, s.pop = .ok t ∧ t.sp.val = k.val ∧
    t.pc = s.stack[k] ∧ Frame [.pc, .sp] s t := by
  have hlive : ¬ s.sp.val = 0 := by omega
  have hlast : s.sp.val - 1 = k.val := by omega
  refine ⟨_, State.pop_ok hlive, hlast, ?entry, fun p hp => ?frame⟩
  case entry => simp [hlast]
  case frame =>
    have hsame := agree_refl p s
    cases p with
    | pc | sp => simp at hp
    | _ => exact hsame

/-! ### Finishing an instruction that may raise -/

theorem settle_map_ok {r : Except Cause State} (f : State → State) (h : r = .ok t) :
    settle s (r.map f) = .next (f t) := by
  rw [h]; rfl

theorem settle_map_takesFault {r : Except Cause State} {c : Cause} (f : State → State) (h : r = .error c) :
    TakesFault c s (settle s (r.map f)) := by
  rw [h]; exact raise_eq c s

/-! ### The statements -/

/-- Settles O14: the one update of 1NNN is pc, and its 12-bit operand is the unsigned number it is. -/
theorem jumpLoadsPc : Obligations.JumpLoadsPc :=
  fun s nnn => ⟨s.setPc (zextImm nnn), rfl, zextImm_toNat nnn, frame_setPc _ (by decide)⟩

/-- Settles O16: a push, then the jump; the fault is that of the push. -/
theorem callPushesItsAddress : Obligations.CallPushesItsAddress := by
  intro s nnn
  constructor
  · intro hfree
    obtain ⟨t, hpush, hsp, hstack, hframe⟩ := State.push_spec hfree
    have hframe' : Frame [.pc, .stack, .sp] s t := hframe.mono (by simp)
    exact ⟨t.setPc (zextImm nnn), settle_map_ok _ hpush, zextImm_toNat nnn, hsp, hstack,
      hframe'.trans (frame_setPc _ (by decide))⟩
  · intro hfull
    exact settle_map_takesFault _ (State.push_full (by omega))

/-- Settles O17: a pop, then the move past the call; the fault is that of the pop. -/
theorem returnPopsAndAddsTwo : Obligations.ReturnPopsAndAddsTwo := by
  intro s
  constructor
  · intro k hlive
    obtain ⟨t, hpop, hsp, hpc, hframe⟩ := State.pop_spec hlive
    have hadd : t.advance.pc.toNat = ((s.stack[k]).toNat + 2) % 65536 := by
      rw [State.advance_pc, hpc, BitVec.toNat_add]; rfl
    exact ⟨t.advance, settle_map_ok _ hpop, hsp, hadd, hframe.trans (frame_setPc _ (by decide))⟩
  · intro hempty
    exact settle_map_takesFault _ (State.pop_empty hempty)

end Sys2Proof.Machine
end

section
/-! PROOFS. The compare skips (R130 to R134): a move of pc by 4 or by 2, and 3XNN, 4XNN, 5XY0 and 9XY0 from it. -/

namespace Sys2Proof.Machine

variable {s : State}

theorem pcMoves_setPc_add (n : Nat) (s : State) : PcMoves n s (s.setPc (s.pc + BitVec.ofNat 16 n)) :=
  (BitVec.toNat_add ..).trans (by simp)

/-- The Boolean that a skip computes decides its condition (R134). -/
theorem pcMoves_skipIf {c : Bool} {p : Prop} [Decidable p] (hc : c = true ↔ p) :
    PcMoves (if p then 4 else 2) s (s.skipIf c) := by
  by_cases hp : p
  · rw [if_pos hp, hc.mpr hp]
    exact pcMoves_setPc_add 4 s
  · rw [if_neg hp, Bool.eq_false_iff.mpr (mt hc.mp hp)]
    exact pcMoves_setPc_add 2 s

theorem frame_skipIf (c : Bool) (s : State) : Frame [.pc] s (s.skipIf c) := frame_setPc _ (by decide)

/-- An instruction that ends in a skip moves pc as its condition says and changes nothing else. -/
theorem skip_spec {o : Outcome} {c : Bool} {p : Prop} [Decidable p] (ho : o = .next (s.skipIf c))
    (hc : c = true ↔ p) : ∃ t, o = .next t ∧ PcMoves (if p then 4 else 2) s t ∧ Frame [.pc] s t :=
  ⟨s.skipIf c, ho, pcMoves_skipIf hc, frame_skipIf c s⟩

/-- Settles O19: each of the four ends in a skip, on an equality or an inequality of two bytes. -/
theorem compareSkipsMovePc : Obligations.CompareSkipsMovePc :=
  fun _ _ _ _ => ⟨skip_spec rfl beq_iff_eq, skip_spec rfl bne_iff_ne, skip_spec rfl beq_iff_eq,
    skip_spec rfl bne_iff_ne⟩

end Sys2Proof.Machine
end

section
/-! PROOFS. Loads, 7XNN and the bitwise operations (R140 to R145): what one register write and the move of pc by 2 do,
and the six instructions that are nothing else. -/

namespace Sys2Proof.Machine

variable {s : State} {x : Reg} {b : Byte} {o : Outcome}

theorem setsReg_setReg (x : Reg) (b : Byte) (s : State) : SetsReg x b s (s.setReg x b) := by
  constructor
  · rw [State.setReg_reg, if_pos rfl]
  · intro j hj
    rw [State.setReg_reg, if_neg hj.symm]

theorem frame_setReg {l : List Part} (x : Reg) (b : Byte) (hregs : .regs ∈ l) : Frame l s (s.setReg x b) := by
  intro p hp
  have hsame := agree_refl p s
  cases p with
  | regs => exact absurd hregs hp
  | _ => exact hsame

theorem pcMoves_advance (s : State) : PcMoves 2 s s.advance := pcMoves_setPc_add 2 s

/-- An instruction that is one register write and the move of pc by 2. -/
theorem setReg_advance_spec (ho : o = .next (s.setReg x b).advance) :
    ∃ t, o = .next t ∧ SetsReg x b s t ∧ PcMoves 2 s t ∧ Frame [.regs, .pc] s t :=
  ⟨(s.setReg x b).advance, ho, setsReg_setReg x b s, pcMoves_advance (s.setReg x b),
    (frame_setReg x b (by decide)).trans (frame_setPc _ (by decide))⟩

/-- Such an instruction whose result is given bit by bit. -/
theorem setReg_advance_bits {bit : Nat → Bool} (ho : o = .next (s.setReg x b).advance)
    (hbit : ∀ k, b.getLsbD k = bit k) :
    ∃ t c, o = .next t ∧ SetsReg x c s t ∧ PcMoves 2 s t ∧ Frame [.regs, .pc] s t ∧ ∀ k, c.getLsbD k = bit k := by
  obtain ⟨t, hnext, hreg, hpc, hframe⟩ := setReg_advance_spec ho
  exact ⟨t, b, hnext, hreg, hpc, hframe, hbit⟩

/-- Settles O20: each load is one register write. -/
theorem loadsSetRegister : Obligations.LoadsSetRegister :=
  fun _ _ _ _ => ⟨setReg_advance_spec rfl, setReg_advance_spec rfl⟩

/-- Settles O21: one register write, of a sum of bytes. -/
theorem addImmediateWraps : Obligations.AddImmediateWraps := by
  intro s x nn
  obtain ⟨t, hnext, hreg, hpc, hframe⟩ := setReg_advance_spec (o := exec (.addVxNn x nn) s) rfl
  exact ⟨t, hnext, ⟨s.reg x + nn, BitVec.toNat_add _ _, hreg⟩, hpc, hframe⟩

/-- Settles O22: each is one register write, of a word operation that the library states bit by bit. -/
theorem logicIsBitwise : Obligations.LogicIsBitwise :=
  fun _ _ _ => ⟨setReg_advance_bits rfl fun _ => BitVec.getLsbD_or,
    setReg_advance_bits rfl fun _ => BitVec.getLsbD_and,
    setReg_advance_bits rfl fun _ => BitVec.getLsbD_xor⟩

end Sys2Proof.Machine
end

section
/-! PROOFS. I and the transfers between registers and memory (R160, R163 to R166): what a store of bytes leaves in a
canonical memory, the check of a span by its last address, and ANNN, FX33, FX55 and FX65 from them. -/

namespace Sys2Proof.Machine

variable {l : List Part} {s : State} {a : Nat} {bs : List Byte}

/-! ### Frames of the three updates -/

theorem frame_setIndex (w : Word) (hindex : .index ∈ l) : Frame l s (s.setIndex w) := by
  intro p hp
  have hsame := agree_refl p s
  cases p with
  | index => exact absurd hindex hp
  | _ => exact hsame

theorem frame_setRegs (w : Vector Byte 16) (hregs : .regs ∈ l) : Frame l s (s.setRegs w) := by
  intro p hp
  have hsame := agree_refl p s
  cases p with
  | regs => exact absurd hregs hp
  | _ => exact hsame

theorem frame_storeBytes (a : Nat) (bs : List Byte) (hmem : .mem ∈ l) : Frame l s (s.storeBytes a bs) := by
  intro p hp
  have hsame := agree_refl p s
  cases p with
  | mem => exact absurd hmem hp
  | _ => exact hsame

/-! ### Bytes after a store in a canonical memory -/

theorem State.storeBytes_byte_inside (hcanon : s.Canonical) (hfit : a + bs.length ≤ 4096) {k : Nat}
    (hk : k < bs.length) : (s.storeBytes a bs).byte (a + k) = bs.getD k 0 := by
  have hin : a ≤ a + k ∧ a + k < a + bs.length := by omega
  rw [State.storeBytes_byte, Memory.read_writeBytes hcanon hfit, if_pos hin, Nat.add_sub_cancel_left]

theorem State.storeBytes_byte_outside (hcanon : s.Canonical) (hfit : a + bs.length ≤ 4096) {j : Nat}
    (hj : j < a ∨ a + bs.length ≤ j) : (s.storeBytes a bs).byte j = s.byte j := by
  have hout : ¬ (a ≤ j ∧ j < a + bs.length) := by omega
  rw [State.storeBytes_byte, Memory.read_writeBytes hcanon hfit, if_neg hout]
  rfl

/-- Each digit is below 256, so that its byte is the number. -/
theorem decimalDigits_toNat (b : Byte) : ((decimalDigits b).getD 0 0).toNat = b.toNat / 100 ∧
    ((decimalDigits b).getD 1 0).toNat = b.toNat / 10 % 10 ∧ ((decimalDigits b).getD 2 0).toNat = b.toNat % 10 := by
  have hdigit : ∀ {d : Nat}, d < 256 → (BitVec.ofNat 8 d).toNat = d := Nat.mod_eq_of_lt
  have hb := b.isLt
  exact ⟨hdigit (by omega), hdigit (by omega), hdigit (by omega)⟩

/-! ### A span checked by its last address -/

section
variable {base n : Nat} {kind : Access} {t : State}

theorem guardSpan_succ_fits (h : base + n ≤ 4095) : guardSpan base (n + 1) kind s t = .next t :=
  guardSpan_fits (.inr (Nat.succ_le_succ h))

theorem guardSpan_succ_takesFault (h : 4095 < base + n) :
    TakesFault (.memoryOutOfBounds (max base 4096) kind) s (guardSpan base (n + 1) kind s t) :=
  (guardSpan_outside (Nat.succ_ne_zero n) (Nat.succ_lt_succ h)).trans (raise_eq _ s)

end

theorem State.indexAfterBlock_toNat (s : State) (x : Reg) :
    (s.indexAfterBlock x).toNat = (s.index.toNat + x.val + 1) % 65536 := by
  rw [State.indexAfterBlock, BitVec.toNat_add, BitVec.toNat_ofNat, Nat.add_mod_mod]
  rfl

/-! ### The statements -/

/-- Settles O29: the one update beside pc is I, and the 12-bit operand is the unsigned number it is. -/
theorem loadIndexImmediate : Obligations.LoadIndexImmediate :=
  fun s nnn => ⟨(s.setIndex (zextImm nnn)).advance, rfl, zextImm_toNat nnn, pcMoves_advance (s.setIndex _),
    (frame_setIndex _ (by decide)).trans (frame_setPc _ (by decide))⟩

/-- Settles O32: a guarded store of three bytes, which are the digits. -/
theorem decimalDigitsStored : Obligations.DecimalDigitsStored := by
  intro s x
  refine ⟨fun hcanon hfit => ?stored, fun hout => guardSpan_succ_takesFault hout⟩
  case stored =>
    obtain ⟨hhundreds, htens, hones⟩ := decimalDigits_toNat (s.reg x)
    have hspan : s.base + (decimalDigits (s.reg x)).length ≤ 4096 := Nat.succ_le_succ hfit
    have hdigit : ∀ k < 3, ((s.storeBytes s.base (decimalDigits (s.reg x))).byte (s.base + k)).toNat =
        ((decimalDigits (s.reg x)).getD k 0).toNat :=
      fun k hk => congrArg BitVec.toNat (State.storeBytes_byte_inside hcanon hspan hk)
    exact ⟨(s.storeBytes s.base (decimalDigits (s.reg x))).advance, guardSpan_succ_fits hfit,
      (hdigit 0 (by decide)).trans hhundreds, (hdigit 1 (by decide)).trans htens, (hdigit 2 (by decide)).trans hones,
      fun a ha => State.storeBytes_byte_outside hcanon hspan ha, pcMoves_advance (s.storeBytes _ _),
      (frame_storeBytes _ _ (by decide)).trans (frame_setPc _ (by decide))⟩

/-- Settles O33: a guarded store of X + 1 bytes, which are the registers in order, then the advance of I. -/
theorem blockStored : Obligations.BlockStored := by
  intro s x
  refine ⟨fun hcanon hfit => ?stored, fun hout => guardSpan_succ_takesFault hout⟩
  case stored =>
    have hspan : s.base + (s.regBlock x).length ≤ 4096 := by
      rw [State.regBlock_length]
      exact Nat.succ_le_succ hfit
    refine ⟨((s.storeBytes s.base (s.regBlock x)).setIndex (s.indexAfterBlock x)).advance, guardSpan_succ_fits hfit,
      fun j hj => ?block, fun a ha => ?others, State.indexAfterBlock_toNat s x,
      pcMoves_advance ((s.storeBytes _ _).setIndex _),
      (frame_storeBytes _ _ (by decide)).trans
        ((frame_setIndex _ (by decide)).trans (frame_setPc _ (by decide)))⟩
    case block =>
      have hj' : j.val < (s.regBlock x).length := by rw [State.regBlock_length]; omega
      exact (State.storeBytes_byte_inside hcanon hspan hj').trans (State.regBlock_getD s x j hj 0)
    case others =>
      have ha' : a < s.base ∨ s.base + (s.regBlock x).length ≤ a := by rwa [State.regBlock_length]
      exact State.storeBytes_byte_outside hcanon hspan ha'

/-- Settles O34: a guarded load of the register file, then the advance of I. -/
theorem blockLoaded : Obligations.BlockLoaded := by
  intro s x
  refine ⟨fun hfit => ?loaded, fun hout => guardSpan_succ_takesFault hout⟩
  case loaded =>
    exact ⟨((s.setRegs (s.loadedRegs x)).setIndex (s.indexAfterBlock x)).advance, guardSpan_succ_fits hfit,
      fun j => State.loadedRegs_reg s s x j, State.indexAfterBlock_toNat s x,
      pcMoves_advance ((s.setRegs _).setIndex _),
      (frame_setRegs _ (by decide)).trans
        ((frame_setIndex _ (by decide)).trans (frame_setPc _ (by decide)))⟩

end Sys2Proof.Machine
end

section
/-! PROOFS. The framebuffer (R28, R170): a redraw changes the framebuffer and RedrawFlag alone, and 00E0 from it. -/

namespace Sys2Proof.Machine

variable {l : List Part} {s : State}

theorem frame_redrawWith (g : Framebuffer) (hfb : .fb ∈ l) (hredraw : .redraw ∈ l) : Frame l s (s.redrawWith g) := by
  intro p hp
  have hsame := agree_refl p s
  cases p with
  | fb => exact absurd hfb hp
  | redraw => exact absurd hredraw hp
  | _ => exact hsame

theorem State.pixel_redrawWith_blank (s : State) (x y : Nat) :
    (s.redrawWith (Vector.replicate 32 0)).pixel x y = false := by
  rw [State.pixel_redrawWith]
  split
  case isTrue hrow => rw [Vector.getElem_replicate hrow]; exact BitVec.getLsbD_zero
  case isFalse => rfl

/-- Settles O37: a redraw with the blank framebuffer, whatever the old one was, then the move of pc by 2. -/
theorem clearScreen : Obligations.ClearScreen :=
  fun s => ⟨(s.redrawWith (Vector.replicate 32 0)).advance, rfl, State.pixel_redrawWith_blank s, rfl,
    pcMoves_advance (s.redrawWith _),
    (frame_redrawWith _ (by decide) (by decide)).trans (frame_setPc _ (by decide))⟩

end Sys2Proof.Machine
end

section
/-! PROOFS. The timers (R183 to R185): what a timer write leaves unchanged, and FX07, FX15 and FX18. -/

namespace Sys2Proof.Machine

variable {l : List Part} {s : State}

theorem frame_setDt (b : Byte) (hdt : .dt ∈ l) : Frame l s (s.setDt b) := by
  intro p hp
  have hsame := agree_refl p s
  cases p with
  | dt => exact absurd hdt hp
  | _ => exact hsame

theorem frame_setSt (b : Byte) (hst : .st ∈ l) : Frame l s (s.setSt b) := by
  intro p hp
  have hsame := agree_refl p s
  cases p with
  | st => exact absurd hst hp
  | _ => exact hsame

/-- Settles O43: FX07 is one register write; FX15 and FX18 are one timer write and the move of pc by 2. -/
theorem timerMoves : Obligations.TimerMoves := by
  intro s x
  refine ⟨setReg_advance_spec rfl, ?writesDt, ?writesSt⟩
  case writesDt =>
    exact ⟨(s.setDt (s.reg x)).advance, rfl, State.setDt_dt s (s.reg x), pcMoves_advance (s.setDt _),
      (frame_setDt _ (by decide)).trans (frame_setPc _ (by decide))⟩
  case writesSt =>
    exact ⟨(s.setSt (s.reg x)).advance, rfl, State.setSt_st s (s.reg x), pcMoves_advance (s.setSt _),
      (frame_setSt _ (by decide)).trans (frame_setPc _ (by decide))⟩

end Sys2Proof.Machine
end

section
/-! PROOFS. The timer tick (R211, R213): what an event does on each side of Run, the counter that stops at 0, and
TimerTick as one write of each timer. -/

namespace Sys2Proof.Machine

variable {s : State}

theorem event_of_running (e : Event) (hrun : s.run = .running) : event e s = eventRunning e s := by
  simp only [event, hrun]

theorem event_of_faulted {c : Cause} (e : Event) (hrun : s.run = .faulted c) : event e s = eventFaulted e s := by
  simp only [event, hrun]

/-- The subtraction of naturals stops at 0, as the counter does. -/
theorem countDown_toNat (b : Byte) : (countDown b).toNat = b.toNat - 1 := by
  by_cases hzero : b = 0
  · subst hzero; rfl
  · have hone : 1 ≤ b := by bv_omega
    rw [countDown, if_neg hzero, BitVec.toNat_sub_of_le hone]
    rfl

/-- The two decrements are independent: the write of DT leaves the ST that is counted down. -/
theorem timerTick_eq (s : State) : timerTick s = (s.setDt (countDown s.dt)).setSt (countDown s.st) := rfl

theorem timerTick_frame (s : State) : Frame [.dt, .st] s (timerTick s) := by
  rw [timerTick_eq]
  exact (frame_setDt _ (by decide)).trans (frame_setSt _ (by decide))

/-- Settles O44: a running machine counts both timers down, each to no less than 0; a Faulted one ignores the event. -/
theorem timerTickCountsDown : Obligations.TimerTickCountsDown := by
  intro s
  refine ⟨fun hrun => ?running, fun c hrun => ?faulted⟩
  case running =>
    exact ⟨timerTick s, event_of_running .timerTick hrun, countDown_toNat s.dt, countDown_toNat s.st, timerTick_frame s⟩
  case faulted => exact event_of_faulted .timerTick hrun

end Sys2Proof.Machine
end

section
/-! PROOFS. The encoding (`30_encoding.md` sections 3 to 5): the row of each instruction, what the masks of the rows look
at, and from them the two round trips, the looser reading and the classes of unknown words. -/

namespace Sys2Proof

/-! ### The row of an instruction -/

/-- The row of the opcode map for an instruction: the constructors stand in the table's order. -/
def Instr.row (i : Instr) : OpcodeRow := opcodeRows[i.ctorIdx]'(by cases i <;> exact Nat.le_of_ble_eq_true rfl)

theorem Instr.row_mem (i : Instr) : i.row ∈ opcodeRows := List.getElem_mem _

/-- Each row builds instructions of its own constructor. -/
theorem row_build {r : OpcodeRow} (hr : r ∈ opcodeRows) (op : Word) : (r.build op).row = r := by
  have hall : opcodeRows.map (fun r => (r.build op).row) = opcodeRows.map id := rfl
  exact List.map_inj_left.1 hall r hr

/-- The model's `EncodingRow` lemmas with the row named, which the round trip needs. -/
theorem encode_hits_row (i : Instr) : encode i &&& i.row.mask = i.row.value := by
  cases i with
  | cls | ret => rfl
  | jpNnn | callNnn | ldINnn | jpV0Nnn => exact formatNNN_top _ _
  | seVxNn | sneVxNn | ldVxNn | addVxNn | rndVxNn => exact formatXNN_top _ _ _
  | drwVxVyN => exact formatXYN_top _ _ _ _
  | skpVx | sknpVx | ldVxDt | ldVxK | ldDtVx | ldStVx | addIVx | ldFVx | ldBVx | ldMemVx | ldVxMem =>
    exact formatXNN_ends _ _ _
  | _ => exact formatXYN_ends _ _ _ _

theorem build_encode (i : Instr) : i.row.build (encode i) = i := by
  cases i with
  | cls | ret => rfl
  | jpNnn | callNnn | ldINnn | jpV0Nnn => exact congrArg _ (fieldNNN_formatNNN _ _)
  | seVxNn | sneVxNn | ldVxNn | addVxNn | rndVxNn =>
    exact congrArg₂ _ (fieldX_formatXNN _ _ _) (fieldNN_formatXNN _ _ _)
  | drwVxVyN x y n =>
    have hfields : Instr.drwVxVyN (fieldX (formatXYN 0xD x y n)) (fieldY (formatXYN 0xD x y n))
        (fieldN (formatXYN 0xD x y n)) = .drwVxVyN x y n := by simp
    exact hfields
  | skpVx | sknpVx | ldVxDt | ldVxK | ldDtVx | ldStVx | addIVx | ldFVx | ldBVx | ldMemVx | ldVxMem =>
    exact congrArg _ (fieldX_formatXNN _ _ _)
  | _ => exact congrArg₂ _ (fieldX_formatXYN _ _ _ _) (fieldY_formatXYN _ _ _ _)

theorem decode_encode (i : Instr) : decode (encode i) = .ok i := by
  rw [decode_of_hits i.row_mem (encode_hits_row i), build_encode]

/-- A decoded word is selected by the row of the instruction it was decoded to. -/
theorem hits_row_of_decode {op : Word} {i : Instr} (h : decode op = .ok i) :
    op &&& i.row.mask = i.row.value ∧ i.row.build op = i := by
  obtain ⟨r, hr, hhit, rfl⟩ := row_of_decode h
  rw [row_build hr]
  exact ⟨hhit, rfl⟩

/-! ### A word from its digits -/

/-- The top nibble of a word, its class (R97). -/
def topDigit (op : Word) : BitVec 4 := op.extractLsb' 12 4

theorem formatNNN_fields (op : Word) : formatNNN (topDigit op) (fieldNNN op) = op := by
  rw [formatNNN, topDigit, fieldNNN, BitVec.extractLsb'_append_extractLsb'_eq_extractLsb' (by decide)]
  exact BitVec.extractLsb'_eq_self

theorem formatXNN_fields (op : Word) : formatXNN (topDigit op) (fieldX op) (fieldNN op) = op := by
  have hhigh : topDigit op ++ (BitVec.ofFin (fieldX op) : BitVec 4) = op.extractLsb' 8 8 :=
    BitVec.extractLsb'_append_extractLsb'_eq_extractLsb' (by decide)
  rw [formatXNN, hhigh, fieldNN, BitVec.extractLsb'_append_extractLsb'_eq_extractLsb' (by decide)]
  exact BitVec.extractLsb'_eq_self

theorem formatXYN_fields (op : Word) : formatXYN (topDigit op) (fieldX op) (fieldY op) (fieldN op) = op := by
  have hlow : (BitVec.ofFin (fieldY op) : BitVec 4) ++ (BitVec.ofFin (fieldN op) : BitVec 4) = fieldNN op :=
    BitVec.extractLsb'_append_extractLsb'_eq_extractLsb' (by decide)
  rw [formatXYN, hlow]
  exact formatXNN_fields op

@[simp] theorem topDigit_formatNNN (t : BitVec 4) (nnn : Imm12) : topDigit (formatNNN t nnn) = t := by
  rw [topDigit, formatNNN, BitVec.extractLsb'_append_eq_of_le (by decide)]
  exact BitVec.extractLsb'_eq_self

@[simp] theorem topDigit_formatXNN (t : BitVec 4) (x : Reg) (nn : Byte) : topDigit (formatXNN t x nn) = t := by
  rw [topDigit, formatXNN, BitVec.extractLsb'_append_eq_of_le (by decide),
    BitVec.extractLsb'_append_eq_of_le (by decide)]
  exact BitVec.extractLsb'_eq_self

@[simp] theorem topDigit_formatXYN (t : BitVec 4) (x y n : Fin 16) : topDigit (formatXYN t x y n) = t := by
  rw [topDigit, formatXYN, BitVec.extractLsb'_append_eq_of_le (by decide),
    BitVec.extractLsb'_append_eq_of_le (by decide)]
  exact BitVec.extractLsb'_eq_self

/-! ### What the masks look at -/

variable {op v : Word} {t : BitVec 4} {n : Fin 16} {nn : Byte}

theorem and_top_eq_iff : op &&& 0xF000 = formatNNN t 0 ↔ topDigit op = t := by
  rw [← formatNNN_fields op, formatNNN_top, topDigit_formatNNN]
  exact ⟨fun h => by simpa using congrArg topDigit h, fun h => h ▸ rfl⟩

theorem and_top_bottom_eq_iff : op &&& 0xF00F = formatXYN t 0 0 n ↔ topDigit op = t ∧ fieldN op = n := by
  rw [← formatXYN_fields op, formatXYN_ends, topDigit_formatXYN, fieldN_formatXYN]
  refine ⟨fun h => ⟨?_, ?_⟩, fun ⟨ht, hn⟩ => ht ▸ hn ▸ rfl⟩
  · simpa using congrArg topDigit h
  · simpa using congrArg fieldN h

theorem and_top_low_eq_iff : op &&& 0xF0FF = formatXNN t 0 nn ↔ topDigit op = t ∧ fieldNN op = nn := by
  rw [← formatXNN_fields op, formatXNN_ends, topDigit_formatXNN, fieldNN_formatXNN]
  refine ⟨fun h => ⟨?_, ?_⟩, fun ⟨ht, hn⟩ => ht ▸ hn ▸ rfl⟩
  · simpa using congrArg topDigit h
  · simpa using congrArg fieldNN h

theorem and_all_eq_iff : op &&& 0xFFFF = v ↔ op = v := by
  rw [show op &&& 0xFFFF = op from BitVec.and_allOnes]

/-! ### A selected word is the encoding of what its row builds -/

theorem formatNNN_of_hit (h : op &&& 0xF000 = formatNNN t 0) : formatNNN t (fieldNNN op) = op := by
  rw [← and_top_eq_iff.1 h, formatNNN_fields]

theorem formatXNN_of_hit (h : op &&& 0xF000 = formatNNN t 0) : formatXNN t (fieldX op) (fieldNN op) = op := by
  rw [← and_top_eq_iff.1 h, formatXNN_fields]

theorem formatXYN_of_hit (h : op &&& 0xF000 = formatNNN t 0) :
    formatXYN t (fieldX op) (fieldY op) (fieldN op) = op := by
  rw [← and_top_eq_iff.1 h, formatXYN_fields]

theorem formatXNN_of_hit_low (h : op &&& 0xF0FF = formatXNN t 0 nn) : formatXNN t (fieldX op) nn = op := by
  obtain ⟨rfl, rfl⟩ := and_top_low_eq_iff.1 h
  exact formatXNN_fields op

theorem formatXYN_of_hit_bottom (h : op &&& 0xF00F = formatXYN t 0 0 n) :
    formatXYN t (fieldX op) (fieldY op) n = op := by
  obtain ⟨rfl, rfl⟩ := and_top_bottom_eq_iff.1 h
  exact formatXYN_fields op

theorem encode_build_of_hit (i : Instr) (h : op &&& i.row.mask = i.row.value) : encode (i.row.build op) = op := by
  cases i with
  | cls | ret => exact (and_all_eq_iff.1 h).symm
  | jpNnn | callNnn | ldINnn | jpV0Nnn => exact formatNNN_of_hit h
  | seVxNn | sneVxNn | ldVxNn | addVxNn | rndVxNn => exact formatXNN_of_hit h
  | drwVxVyN => exact formatXYN_of_hit h
  | skpVx | sknpVx | ldVxDt | ldVxK | ldDtVx | ldStVx | addIVx | ldFVx | ldBVx | ldMemVx | ldVxMem =>
    exact formatXNN_of_hit_low h
  | _ => exact formatXYN_of_hit_bottom h

/-! ### The round trips -/

/-- Settles O9: the two bytes are the word, which its own row selects and builds back. -/
theorem decodeEncodeRoundTrip : Obligations.DecodeEncodeRoundTrip := by
  intro i rest _
  rw [encodeBytes, decodeBytes_bytesOfWord, decode_encode]
  rfl

/-- Settles O10: the row that selected the word fixes its literal digits, and the fields are the others. -/
theorem encodeOfDecodedWord : Obligations.EncodeOfDecodedWord := by
  intro op i h
  obtain ⟨hhit, hbuild⟩ := hits_row_of_decode h
  rw [← hbuild]
  exact encode_build_of_hit i hhit

/-- Settles O13: each word is the encoding of its instruction. -/
theorem sampleWordsDecode : Obligations.SampleWordsDecode :=
  ⟨decode_encode .cls, decode_encode .ret, decode_encode (.jpNnn 0xABC), decode_encode (.seVxNn 10 0x42),
    decode_encode (.addVxVy 10 11), decode_encode (.rndVxNn 0 0x0F), decode_encode (.drwVxVyN 7 10 3),
    decode_encode (.skpVx 1), decode_encode (.ldDtVx 1), decode_encode (.ldVxMem 2)⟩

end Sys2Proof
end

section
/-! PROOFS. The looser reading (R98): its pairs have no overlaps either, and each selects the words of the exact pair. -/

namespace Sys2Proof

variable {op : Word} {r : OpcodeRow}

/-- The member found is the one that satisfies the test, where no two members do. -/
theorem find?_of_pairwise_not_both {α : Type} {p : α → Bool} {l : List α} {a : α}
    (hunique : l.Pairwise fun b c => ¬ (p b = true ∧ p c = true)) (ha : a ∈ l) (hp : p a = true) :
    l.find? p = some a := by
  induction l with
  | nil => cases ha
  | cons b l ih =>
    obtain ⟨hb, hl⟩ := List.pairwise_cons.1 hunique
    obtain rfl | hin := List.mem_cons.1 ha
    · exact List.find?_cons_of_pos hp
    · rw [List.find?_cons_of_neg fun hpb => hb a hin ⟨hpb, hp⟩]
      exact ih hl hin

theorem hits_loose_iff : r.hits true op = true ↔ op &&& r.looseMask = r.looseValue := by
  simp [OpcodeRow.hits]

theorem decodeWith_loose_of_hits (hr : r ∈ opcodeRows) (h : r.hits true op = true) :
    decodeWith true op = .ok (r.build op) := by
  have hunique : opcodeRows.Pairwise fun r r' => ¬ (r.hits true op = true ∧ r'.hits true op = true) :=
    opcodeRows_loose_disjoint.imp fun hapart ⟨h1, h2⟩ =>
      not_both_hit hapart (hits_loose_iff.1 h1) (hits_loose_iff.1 h2)
  simp only [decodeWith, find?_of_pairwise_not_both hunique hr h]

/-- The loose mask looks at no other bits than the exact one, and asks the same of them. -/
theorem loose_pair_of_exact :
    ∀ r ∈ opcodeRows, r.mask &&& r.looseMask = r.looseMask ∧ r.value &&& r.looseMask = r.looseValue := by
  decide

theorem hits_loose_of_exact (hr : r ∈ opcodeRows) (h : op &&& r.mask = r.value) : r.hits true op = true := by
  obtain ⟨hmask, hvalue⟩ := loose_pair_of_exact r hr
  rw [hits_loose_iff, ← hmask, ← BitVec.and_assoc, h, hvalue]

/-- Settles O12: the row that selects a word exactly selects it loosely too, and no other row does. -/
theorem looseDecodingExtendsExact : Obligations.LooseDecodingExtendsExact := by
  intro op i h
  obtain ⟨r, hr, hhit, rfl⟩ := row_of_decode h
  exact decodeWith_loose_of_hits hr (hits_loose_of_exact hr hhit)

end Sys2Proof
end

section
/-! PROOFS. The unknown words (R97): for each of the four lists of rows, the words that none of its rows selects, in terms
of their digits; then the six classes from the four. -/

namespace Sys2Proof

variable {op v : Word}

/-! ### The masks, for a row's value written as a number -/

theorem and_top_eq_value_iff (hv : formatNNN (topDigit v) 0 = v) :
    op &&& 0xF000 = v ↔ topDigit op = topDigit v := by
  rw [← hv, and_top_eq_iff, hv]

theorem and_top_bottom_eq_value_iff (hv : formatXYN (topDigit v) 0 0 (fieldN v) = v) :
    op &&& 0xF00F = v ↔ topDigit op = topDigit v ∧ fieldN op = fieldN v := by
  rw [← hv, and_top_bottom_eq_iff, hv]

theorem and_top_low_eq_value_iff (hv : formatXNN (topDigit v) 0 (fieldNN v) = v) :
    op &&& 0xF0FF = v ↔ topDigit op = topDigit v ∧ fieldNN op = fieldNN v := by
  rw [← hv, and_top_low_eq_iff, hv]

/-! ### The words that a list of rows misses -/

theorem missed_by_rowsLow_iff : (∀ r ∈ opcodeRowsLow, op &&& r.mask ≠ r.value) ↔
    op ≠ 0x00E0 ∧ op ≠ 0x00EE ∧ topDigit op ∉ ([0x1, 0x2, 0x3, 0x4, 0x6, 0x7] : List (BitVec 4)) ∧
    (topDigit op = 0x5 → fieldN op ≠ 0) := by
  simp (disch := decide) only [opcodeRowsLow, List.forall_mem_cons, ne_eq, and_top_eq_value_iff,
    and_top_bottom_eq_value_iff, and_all_eq_iff]
  generalize topDigit op = t
  generalize fieldN op = n
  simp [topDigit, fieldN]
  tauto

theorem missed_by_rowsAlu_iff : (∀ r ∈ opcodeRowsAlu, op &&& r.mask ≠ r.value) ↔ (topDigit op = 0x8 →
    fieldN op ∉ ([0x0, 0x1, 0x2, 0x3, 0x4, 0x5, 0x6, 0x7, 0xE] : List (Fin 16))) := by
  simp (disch := decide) only [opcodeRowsAlu, List.forall_mem_cons, ne_eq, and_top_bottom_eq_value_iff]
  generalize topDigit op = t
  generalize fieldN op = n
  simp [topDigit, fieldN, ← imp_and]
  -- The two sides differ in how the digit 1 is written: `simp` reads it off the row's value as a cast.
  exact Iff.rfl

theorem missed_by_rowsMid_iff : (∀ r ∈ opcodeRowsMid, op &&& r.mask ≠ r.value) ↔
    (topDigit op = 0x9 → fieldN op ≠ 0) ∧ topDigit op ∉ ([0xA, 0xB, 0xC, 0xD] : List (BitVec 4)) ∧
    (topDigit op = 0xE → fieldNN op ∉ ([0x9E, 0xA1] : List Byte)) := by
  simp (disch := decide) only [opcodeRowsMid, List.forall_mem_cons, ne_eq, and_top_eq_value_iff,
    and_top_bottom_eq_value_iff, and_top_low_eq_value_iff]
  generalize topDigit op = t
  generalize fieldN op = n
  generalize fieldNN op = nn
  simp [topDigit, fieldN, fieldNN, ← imp_and]
  tauto

theorem missed_by_rowsHigh_iff : (∀ r ∈ opcodeRowsHigh, op &&& r.mask ≠ r.value) ↔ (topDigit op = 0xF →
    fieldNN op ∉ ([0x07, 0x0A, 0x15, 0x18, 0x1E, 0x29, 0x33, 0x55, 0x65] : List Byte)) := by
  simp (disch := decide) only [opcodeRowsHigh, List.forall_mem_cons, ne_eq, and_top_low_eq_value_iff]
  generalize topDigit op = t
  generalize fieldNN op = nn
  simp [topDigit, fieldNN, ← imp_and]

/-! ### The classes -/

theorem decode_unknown_iff :
    decode op = .error (.unknownOpcode op) ↔ ∀ r ∈ opcodeRows, op &&& r.mask ≠ r.value :=
  ⟨no_row_of_decode_error, decode_of_no_row⟩

/-- The classes with unknown words are those in which no row selects every word. -/
theorem class_has_unknown : ∀ t : BitVec 4, t ∉ ([0x1, 0x2, 0x3, 0x4, 0x6, 0x7] : List (BitVec 4)) →
    t ∉ ([0xA, 0xB, 0xC, 0xD] : List (BitVec 4)) →
    t = 0x0 ∨ t = 0x5 ∨ t = 0x8 ∨ t = 0x9 ∨ t = 0xE ∨ t = 0xF := by
  decide

theorem not_alu_digit_iff : ∀ n : Fin 16,
    n ∉ ([0x0, 0x1, 0x2, 0x3, 0x4, 0x5, 0x6, 0x7, 0xE] : List (Fin 16)) ↔ 8 ≤ n.val ∧ n ≠ 0xE := by
  decide

/-- Settles O11: a word is unknown when all four lists miss it; its class then is one of the six, and what is left is
what the rows of that class say. -/
theorem unknownWordsByClass : Obligations.UnknownWordsByClass := by
  intro op
  have hclass : op.extractLsb' 12 4 = topDigit op := rfl
  rw [decode_unknown_iff, hclass, opcodeRows, List.forall_mem_append, List.forall_mem_append, List.forall_mem_append,
    missed_by_rowsLow_iff, missed_by_rowsAlu_iff, missed_by_rowsMid_iff, missed_by_rowsHigh_iff, not_alu_digit_iff]
  constructor
  · rintro ⟨⟨hcls, hret, hlow, h5⟩, h8, ⟨h9, hmid, hE⟩, hF⟩
    obtain ht | ht | ht | ht | ht | ht := class_has_unknown (topDigit op) hlow hmid
    · exact .inl ⟨ht, hcls, hret⟩
    · exact .inr (.inl ⟨ht, h5 ht⟩)
    · exact .inr (.inr (.inl ⟨ht, h8 ht⟩))
    · exact .inr (.inr (.inr (.inl ⟨ht, h9 ht⟩)))
    · exact .inr (.inr (.inr (.inr (.inl ⟨ht, by simpa using hE ht⟩))))
    · exact .inr (.inr (.inr (.inr (.inr ⟨ht, hF ht⟩))))
  · have hother (ht : topDigit op ≠ 0x0) : op ≠ 0x00E0 ∧ op ≠ 0x00EE :=
      ⟨fun h => ht (h ▸ rfl), fun h => ht (h ▸ rfl)⟩
    rintro (⟨ht, h⟩ | ⟨ht, h⟩ | ⟨ht, h⟩ | ⟨ht, h⟩ | ⟨ht, h⟩ | ⟨ht, h⟩) <;> simp_all

end Sys2Proof
end

section
/-! PROOFS. Everything an instruction can do (R201, R210): it completes, with Run as before and within the parts the spec
lets it write, or it takes one of its faults in the state before it. -/

namespace Sys2Proof.Machine

variable {l : List Part} {s t : State} {P : State → Prop} {R : Cause → Prop}

/-! ### Frames of the updates that instructions end in -/

theorem frame_setRun (r : RunStatus) (hrun : .run ∈ l) : Frame l s (s.setRun r) := by
  intro p hp
  have hsame := agree_refl p s
  cases p with
  | run => exact absurd hrun hp
  | _ => exact hsame

theorem frame_drawn (s : State) (hdraws : .draws ∈ l) : Frame l s s.drawn := by
  intro p hp
  have hsame := agree_refl p s
  cases p with
  | draws => exact absurd hdraws hp
  | _ => exact hsame

theorem Frame.advance (h : Frame l s t) (hpc : .pc ∈ l) : Frame l s t.advance := h.trans (frame_setPc _ hpc)

theorem frame_setReg_advance (x : Reg) (b : Byte) (s : State) : Frame [.regs, .pc] s (s.setReg x b).advance :=
  (frame_setReg x b (by decide)).advance (by decide)

theorem frame_setReg_drawn_advance (x : Reg) (b : Byte) (s : State) :
    Frame [.regs, .pc, .draws] s (s.setReg x b).drawn.advance :=
  ((frame_setReg x b (by decide)).trans (frame_drawn _ (by decide))).advance (by decide)

theorem frame_flagThen_advance (flag : Byte) (x : Reg) (f : State → Byte) (s : State) :
    Frame [.regs, .pc] s (s.flagThen flag x f).advance :=
  ((frame_setReg flagReg flag (by decide)).trans (frame_setReg x _ (by decide))).advance (by decide)

theorem frame_setIndex_advance (w : Word) (s : State) : Frame [.index, .pc] s (s.setIndex w).advance :=
  (frame_setIndex w (by decide)).advance (by decide)

theorem frame_setDt_advance (b : Byte) (s : State) : Frame [.dt, .pc] s (s.setDt b).advance :=
  (frame_setDt b (by decide)).advance (by decide)

theorem frame_setSt_advance (b : Byte) (s : State) : Frame [.st, .pc] s (s.setSt b).advance :=
  (frame_setSt b (by decide)).advance (by decide)

theorem frame_redrawWith_advance (g : Framebuffer) (s : State) :
    Frame [.fb, .redraw, .pc] s (s.redrawWith g).advance :=
  (frame_redrawWith g (by decide) (by decide)).advance (by decide)

/-- The updates of DXYN. -/
theorem frame_draw (g : Framebuffer) (flag : Byte) (s : State) :
    Frame [.regs, .fb, .redraw, .pc] s ((s.redrawWith g).setReg flagReg flag).advance :=
  ((frame_redrawWith g (by decide) (by decide)).trans (frame_setReg flagReg flag (by decide))).advance (by decide)

/-- The updates of FX1E. -/
theorem frame_flagIndex (flag : Byte) (w : Word) (s : State) :
    Frame [.regs, .index, .pc] s ((s.setReg flagReg flag).setIndex w).advance :=
  ((frame_setReg flagReg flag (by decide)).trans (frame_setIndex w (by decide))).advance (by decide)

/-- The updates of FX33. -/
theorem frame_storeBytes_advance (a : Nat) (bs : List Byte) (s : State) :
    Frame [.mem, .pc] s (s.storeBytes a bs).advance :=
  (frame_storeBytes a bs (by decide)).advance (by decide)

/-- The updates of FX55. -/
theorem frame_storeBlock (a : Nat) (bs : List Byte) (w : Word) (s : State) :
    Frame [.mem, .index, .pc] s ((s.storeBytes a bs).setIndex w).advance :=
  ((frame_storeBytes a bs (by decide)).trans (frame_setIndex w (by decide))).advance (by decide)

/-- The updates of FX65. -/
theorem frame_loadBlock (v : Vector Byte 16) (w : Word) (s : State) :
    Frame [.regs, .index, .pc] s ((s.setRegs v).setIndex w).advance :=
  ((frame_setRegs v (by decide)).trans (frame_setIndex w (by decide))).advance (by decide)

/-! ### Completing or taking a fault, by the operation an instruction ends in -/

/-- The outcome is a next state with `P`, or a fault with `R` taken in `s`. -/
def Answers (P : State → Prop) (R : Cause → Prop) (s : State) (o : Outcome) : Prop :=
  (∃ t, o = .next t ∧ P t) ∨ ∃ c, o = raise c s ∧ R c

theorem answers_next (h : P t) : Answers P R s (.next t) := .inl ⟨t, rfl, h⟩

section
variable {base n : Nat} {kind : Access}

theorem answers_guardSpan (hok : P t)
    (hfault : n ≠ 0 → 4096 < base + n → R (.memoryOutOfBounds (max base 4096) kind)) :
    Answers P R s (guardSpan base n kind s t) := by
  by_cases hfit : n = 0 ∨ base + n ≤ 4096
  · exact .inl ⟨t, guardSpan_fits hfit, hok⟩
  · obtain ⟨hn, hout⟩ : n ≠ 0 ∧ 4096 < base + n := by omega
    exact .inr ⟨_, guardSpan_outside hn hout, hfault hn hout⟩

theorem answers_guardSpan_succ (hok : P t)
    (hfault : 4095 < base + n → R (.memoryOutOfBounds (max base 4096) kind)) :
    Answers P R s (guardSpan base (n + 1) kind s t) :=
  answers_guardSpan hok fun _ hout => hfault (Nat.lt_of_succ_lt_succ hout)

end

section
variable {x k : Reg} {pressed : Bool}

theorem skipOnKey_inside (h : (s.reg x).toNat < 16) :
    skipOnKey x pressed s = .next (s.skipIf (s.keys[(s.reg x).toNat] == pressed)) := dif_pos h

theorem skipOnKey_outside (h : ¬ (s.reg x).toNat < 16) :
    skipOnKey x pressed s = raise (.keyIndexOutOfRange (s.reg x)) s := dif_neg h

theorem answers_skipOnKey (hok : ∀ c, P (s.skipIf c))
    (hfault : 15 < (s.reg x).toNat → R (.keyIndexOutOfRange (s.reg x))) : Answers P R s (skipOnKey x pressed s) := by
  by_cases hkey : (s.reg x).toNat < 16
  · exact .inl ⟨_, skipOnKey_inside hkey, hok _⟩
  · exact .inr ⟨_, skipOnKey_outside hkey, hfault (by omega)⟩

theorem execLdVxK_none (h : pickKey s.keys s.draws = none) : execLdVxK x s = .next s := by
  rw [execLdVxK, h]

theorem execLdVxK_some (h : pickKey s.keys s.draws = some k) :
    execLdVxK x s = .next (s.setReg x (BitVec.ofNat 8 k.val)).drawn.advance := by
  rw [execLdVxK, h]

theorem answers_execLdVxK (hwait : P s) (hkey : ∀ b, P (s.setReg x b).drawn.advance) :
    Answers P R s (execLdVxK x s) := by
  cases hpick : pickKey s.keys s.draws with
  | none => exact .inl ⟨s, execLdVxK_none hpick, hwait⟩
  | some k => exact .inl ⟨_, execLdVxK_some hpick, hkey _⟩

end

/-- 2NNN takes its fault on a full stack; else it is a push as in `State.push_spec`, and pc becomes the target. -/
theorem execCallNnn_cases (nnn : Imm12) (s : State) :
    (s.sp.val = 16 ∧ exec (.callNnn nnn) s = raise (.stackOverflow s.pc) s) ∨
    ∃ t, exec (.callNnn nnn) s = .next (t.setPc (zextImm nnn)) ∧ t.sp.val = s.sp.val + 1 ∧
      (∀ k : Fin 16, t.stack[k] = if k.val = s.sp.val then s.pc else s.stack[k]) ∧ Frame [.stack, .sp] s t := by
  by_cases hfree : s.sp.val < 16
  · obtain ⟨t, hpush, hsp, hstack, hframe⟩ := State.push_spec hfree
    exact .inr ⟨t, settle_map_ok _ hpush, hsp, hstack, hframe⟩
  · exact .inl ⟨by omega, settle_map_takesFault _ (State.push_full hfree)⟩

/-- 00EE takes its fault on an empty stack; else it is a pop as in `State.pop_spec`, and then pc moves by 2. -/
theorem execRet_cases (s : State) : (s.sp.val = 0 ∧ exec .ret s = raise (.stackUnderflow s.pc) s) ∨
    ∃ (k : Fin 16) (t : State), exec .ret s = .next t.advance ∧ s.sp.val = k.val + 1 ∧ t.sp.val = k.val ∧
      t.pc = s.stack[k] ∧ Frame [.pc, .sp] s t := by
  by_cases hempty : s.sp.val = 0
  · exact .inl ⟨hempty, settle_map_takesFault _ (State.pop_empty hempty)⟩
  · have hlive : s.sp.val = (⟨s.sp.val - 1, by omega⟩ : Fin 16).val + 1 := (Nat.succ_pred hempty).symm
    obtain ⟨t, hpop, hsp, hpc, hframe⟩ := State.pop_spec hlive
    exact .inr ⟨_, t, settle_map_ok _ hpop, hlive, hsp, hpc, hframe⟩

/-! ### What each instruction completes with, and what it raises -/

/-- An instruction that completes leaves Run and stays within its parts. -/
def Completes (i : Instr) (s t : State) : Prop := t.run = s.run ∧ Frame (mayChange i) s t

theorem completes_of_frame {i : Instr} (h : Frame l s t) (hrun : .run ∉ l) (hl : l ⊆ mayChange i) :
    Completes i s t := ⟨h .run hrun, h.mono hl⟩

/-- The faults of each instruction, with their condition and information (R201). -/
def Raises : Instr → State → Cause → Prop
  | .callNnn _, s, c => s.sp.val = 16 ∧ c = .stackOverflow s.pc
  | .ret, s, c => s.sp.val = 0 ∧ c = .stackUnderflow s.pc
  | .drwVxVyN _ _ n, s, c =>
    (n.val ≠ 0 ∧ 4096 < s.index.toNat + n.val) ∧ c = .memoryOutOfBounds (max s.index.toNat 4096) .read
  | .ldVxMem x, s, c => 4095 < s.index.toNat + x.val ∧ c = .memoryOutOfBounds (max s.index.toNat 4096) .read
  | .ldBVx _, s, c => 4095 < s.index.toNat + 2 ∧ c = .memoryOutOfBounds (max s.index.toNat 4096) .write
  | .ldMemVx x, s, c => 4095 < s.index.toNat + x.val ∧ c = .memoryOutOfBounds (max s.index.toNat 4096) .write
  | .skpVx x, s, c | .sknpVx x, s, c => 15 < (s.reg x).toNat ∧ c = .keyIndexOutOfRange (s.reg x)
  | _, _, _ => False

theorem run_mem_mayChange_of_raises {i : Instr} {c : Cause} (h : Raises i s c) : Part.run ∈ mayChange i := by
  cases i with
  | ret | callNnn | drwVxVyN | skpVx | sknpVx | ldBVx | ldMemVx | ldVxMem => simp [mayChange]
  | _ => exact h.elim

/-- Every instruction, by the operation it ends in and the frame of its updates. -/
theorem exec_answers (i : Instr) (s : State) : Answers (Completes i s) (Raises i s) s (exec i s) := by
  cases i with
  | ret =>
    obtain ⟨hempty, hfault⟩ | ⟨k, t, hnext, -, -, -, hframe⟩ := execRet_cases s
    · exact .inr ⟨_, hfault, hempty, rfl⟩
    · exact .inl ⟨_, hnext, completes_of_frame (hframe.advance (by decide)) (by decide) (by decide)⟩
  | callNnn nnn =>
    obtain ⟨hfull, hfault⟩ | ⟨t, hnext, -, -, hframe⟩ := execCallNnn_cases nnn s
    · exact .inr ⟨_, hfault, hfull, rfl⟩
    · have hjump : Frame [.stack, .sp, .pc] s (t.setPc (zextImm nnn)) :=
        (hframe.mono (by decide)).trans (frame_setPc _ (by decide))
      exact .inl ⟨_, hnext, completes_of_frame hjump (by decide) (by simp [mayChange])⟩
  | jpNnn | jpV0Nnn | seVxNn | sneVxNn | seVxVy | sneVxVy =>
    exact answers_next (completes_of_frame (l := [.pc]) (frame_setPc _ (by decide)) (by decide) (List.Subset.refl _))
  | ldVxNn | addVxNn | ldVxVy | orVxVy | andVxVy | xorVxVy | ldVxDt =>
    exact answers_next (completes_of_frame (frame_setReg_advance _ _ s) (by decide) (List.Subset.refl _))
  | addVxVy | subVxVy | shrVx | subnVxVy | shlVx =>
    exact answers_next (completes_of_frame (frame_flagThen_advance _ _ _ s) (by decide) (List.Subset.refl _))
  | rndVxNn =>
    exact answers_next (completes_of_frame (frame_setReg_drawn_advance _ _ s) (by decide) (List.Subset.refl _))
  | ldVxK =>
    exact answers_execLdVxK ⟨rfl, fun p _ => agree_refl p s⟩ fun _ =>
      completes_of_frame (frame_setReg_drawn_advance _ _ s) (by decide) (List.Subset.refl _)
  | ldINnn | ldFVx =>
    exact answers_next (completes_of_frame (frame_setIndex_advance _ s) (by decide) (List.Subset.refl _))
  | addIVx =>
    exact answers_next (completes_of_frame (frame_flagIndex _ _ s) (by decide) (List.Subset.refl _))
  | ldDtVx =>
    exact answers_next (completes_of_frame (frame_setDt_advance _ s) (by decide) (List.Subset.refl _))
  | ldStVx =>
    exact answers_next (completes_of_frame (frame_setSt_advance _ s) (by decide) (List.Subset.refl _))
  | cls =>
    exact answers_next (completes_of_frame (frame_redrawWith_advance _ s) (by decide) (List.Subset.refl _))
  | drwVxVyN =>
    exact answers_guardSpan (completes_of_frame (frame_draw _ _ s) (by decide) (by simp [mayChange]))
      fun hn hout => ⟨⟨hn, hout⟩, rfl⟩
  | ldBVx =>
    exact answers_guardSpan_succ (completes_of_frame (frame_storeBytes_advance _ _ s) (by decide) (by simp [mayChange]))
      fun hout => ⟨hout, rfl⟩
  | ldMemVx =>
    exact answers_guardSpan_succ (completes_of_frame (frame_storeBlock _ _ _ s) (by decide) (by simp [mayChange]))
      fun hout => ⟨hout, rfl⟩
  | ldVxMem =>
    exact answers_guardSpan_succ (completes_of_frame (frame_loadBlock _ _ s) (by decide) (by simp [mayChange]))
      fun hout => ⟨hout, rfl⟩
  | skpVx | sknpVx =>
    exact answers_skipOnKey (fun c => completes_of_frame (frame_skipIf c s) (by decide) (by simp [mayChange]))
      fun hout => ⟨hout, rfl⟩

end Sys2Proof.Machine
end

section
/-! PROOFS. Faults and frames of instructions and Steps (R20, R201, R210, R214, R28), from what an instruction can do. -/

namespace Sys2Proof.Machine

variable {s t : State} {i : Instr}

/-! ### Instructions -/

theorem exec_next_cases (h : exec i s = .next t) :
    Completes i s t ∨ ∃ c, t = s.setRun (.faulted c) ∧ Raises i s c := by
  obtain ⟨u, hu, hdone⟩ | ⟨c, hc, hraises⟩ := exec_answers i s
  · obtain rfl : u = t := Host.Outcome.next.inj (hu.symm.trans h)
    exact .inl hdone
  · exact .inr ⟨c, (Host.Outcome.next.inj (hc.symm.trans h)).symm, hraises⟩

theorem exec_frame (h : exec i s = .next t) : Frame (mayChange i) s t := by
  obtain ⟨-, hframe⟩ | ⟨c, rfl, hraises⟩ := exec_next_cases h
  · exact hframe
  · exact frame_setRun _ (run_mem_mayChange_of_raises hraises)

/-- Settles O47: completing, an instruction stays within its parts; only those that may change Run raise. -/
theorem instructionsWriteOnlyTheirParts : Obligations.InstructionsWriteOnlyTheirParts :=
  fun _ _ _ h => exec_frame h

/-- Settles O8: a completed instruction leaves Run, so the fault is one that the instruction raises. -/
theorem faultCausesAreThoseListed : Obligations.FaultCausesAreThoseListed := by
  intro i s t c hrun h hfault
  obtain ⟨hsame, -⟩ | ⟨c', rfl, hraises⟩ := exec_next_cases h
  · rw [hsame, hrun] at hfault
    cases hfault
  obtain rfl : c' = c := RunStatus.faulted.inj hfault
  cases i with
  | callNnn nnn =>
    obtain ⟨hfull, rfl⟩ := hraises
    exact ⟨⟨nnn, rfl⟩, hfull, rfl⟩
  | ret =>
    obtain ⟨hempty, rfl⟩ := hraises
    exact ⟨rfl, hempty, rfl⟩
  | drwVxVyN x y n =>
    obtain ⟨⟨hn, hout⟩, rfl⟩ := hraises
    exact ⟨rfl, .inl ⟨x, y, n, rfl, rfl, hn, hout⟩⟩
  | ldVxMem x =>
    obtain ⟨hout, rfl⟩ := hraises
    exact ⟨rfl, .inr (.inl ⟨x, rfl, rfl, hout⟩)⟩
  | ldBVx x =>
    obtain ⟨hout, rfl⟩ := hraises
    exact ⟨rfl, .inr (.inr (.inl ⟨x, rfl, rfl, hout⟩))⟩
  | ldMemVx x =>
    obtain ⟨hout, rfl⟩ := hraises
    exact ⟨rfl, .inr (.inr (.inr ⟨x, rfl, rfl, hout⟩))⟩
  | skpVx x =>
    obtain ⟨hkey, rfl⟩ := hraises
    exact ⟨x, .inl rfl, rfl, hkey⟩
  | sknpVx x =>
    obtain ⟨hkey, rfl⟩ := hraises
    exact ⟨x, .inr rfl, rfl, hkey⟩
  | _ => exact hraises.elim

/-! ### Steps -/

/-- Settles O7: a fault of the fetch or the decode is taken in the state before, and so is one of the instruction,
which else completes with Run as it was. -/
theorem stepFaultsArePrecise : Obligations.StepFaultsArePrecise := by
  intro s hrun
  cases hi : nextInstr s with
  | error c => exact ⟨_, step_takesFault hrun hi, .inr ⟨c, rfl⟩⟩
  | ok i =>
    rw [step_eq_exec hrun hi]
    obtain ⟨t, hnext, hsame, -⟩ | ⟨c, hfault, -⟩ := exec_answers i s
    · exact ⟨t, hnext, .inl (hsame.trans hrun)⟩
    · exact ⟨_, hfault, .inr ⟨c, rfl⟩⟩

/-- A part that a Step changes, Run apart, is one that the instruction it fetched may change. -/
theorem step_changes {p : Part} (h : step s = .next t) (hp : p ≠ .run) (hchanged : ¬ Agree p s t) :
    ∃ i, nextInstr s = .ok i ∧ exec i s = .next t ∧ p ∈ mayChange i := by
  obtain ⟨rfl, -⟩ | ⟨-, c, -, rfl⟩ | ⟨-, i, hi, hexec⟩ := step_cases h
  · exact absurd (agree_refl p _) hchanged
  · exact absurd (frame_setRun (l := [.run]) _ (by decide) p (by simpa using hp)) hchanged
  · exact ⟨i, hi, hexec, by_contra fun hmay => hchanged (exec_frame hexec p hmay)⟩

/-- Settles O51: FX15 is the one instruction that may change DT, and FX18 the one that may change ST. -/
theorem stepChangesTimersOnlyByStores : Obligations.StepChangesTimersOnlyByStores := by
  intro s t h
  constructor
  · intro hdt
    obtain ⟨i, hi, -, hmay⟩ := step_changes (p := .dt) h (by decide) hdt
    cases i with
    | ldDtVx x => exact ⟨x, hi⟩
    | _ => simp [mayChange] at hmay
  · intro hst
    obtain ⟨i, hi, -, hmay⟩ := step_changes (p := .st) h (by decide) hst
    cases i with
    | ldStVx x => exact ⟨x, hi⟩
    | _ => simp [mayChange] at hmay

/-- 00E0 and DXYN, which may change RedrawFlag, set it or have taken a fault. -/
theorem redraw_of_mem_mayChange (h : exec i s = .next t) (hmay : Part.redraw ∈ mayChange i) :
    t.redraw = true ∨ t.redraw = s.redraw := by
  revert t
  change NextSatisfies (fun t => t.redraw = true ∨ t.redraw = s.redraw) (exec i s)
  cases i with
  | cls => exact nextSatisfies_next (.inl rfl)
  | drwVxVyN => exact nextSatisfies_guardSpan (.inl rfl) fun _ => .inr rfl
  | _ => simp [mayChange] at hmay

/-- Settles O52: a Step that changes RedrawFlag fetched an instruction that may, and such a change sets it. -/
theorem stepOnlySetsRedrawFlag : Obligations.StepOnlySetsRedrawFlag := by
  intro s t h
  have hchange (hne : t.redraw ≠ s.redraw) := step_changes (p := .redraw) h (by decide) hne
  constructor
  · intro hset
    by_contra hclear
    obtain ⟨i, -, hexec, hmay⟩ := hchange (by rwa [hset])
    obtain hset' | hsame := redraw_of_mem_mayChange hexec hmay
    · exact hclear hset'
    · exact hclear (hsame.trans hset)
  · intro hne
    obtain ⟨i, hi, -, hmay⟩ := hchange hne
    cases i with
    | cls => exact .inl hi
    | drwVxVyN x y n => exact .inr ⟨x, y, n, hi⟩
    | _ => simp [mayChange] at hmay

end Sys2Proof.Machine
end

section
/-! PROOFS. Which registers, which bytes and how far pc (R22, R66, R99): finer than the frame of an instruction. -/

namespace Sys2Proof.Machine

variable {s t : State}

/-- Settles O48: the instructions that may change registers write those listed; the frame says the rest. -/
theorem instructionsWriteOnlyTheirRegisters : Obligations.InstructionsWriteOnlyTheirRegisters := by
  intro i s t j h hj
  revert t
  change NextSatisfies (fun t => t.reg j = s.reg j) (exec i s)
  cases i with
  | ldVxNn x | addVxNn x | ldVxVy x | orVxVy x | andVxVy x | xorVxVy x | ldVxDt x | rndVxNn x =>
    have hx : j ≠ x := by simpa [mayWriteReg] using hj
    exact nextSatisfies_next (by simp [hx.symm])
  | ldVxK x =>
    have hx : j ≠ x := by simpa [mayWriteReg] using hj
    exact nextSatisfies_execLdVxK rfl fun _ => by simp [hx.symm]
  | addVxVy x | subVxVy x | shrVx x | subnVxVy x | shlVx x =>
    obtain ⟨hx, hflag⟩ : j ≠ x ∧ j ≠ flagReg := by simpa [mayWriteReg] using hj
    exact nextSatisfies_next (by simp [State.flagThen_reg, hx.symm, hflag.symm])
  | addIVx =>
    have hflag : j ≠ flagReg := by simpa [mayWriteReg] using hj
    exact nextSatisfies_next (by simp [hflag.symm])
  | drwVxVyN =>
    have hflag : j ≠ flagReg := by simpa [mayWriteReg] using hj
    exact nextSatisfies_guardSpan (by simp [hflag.symm]) fun _ => rfl
  | ldVxMem x =>
    have hx : x < j := by simpa [mayWriteReg] using hj
    exact nextSatisfies_guardSpan (by simp [Nat.not_le.2 hx]) fun _ => rfl
  | _ => exact fun t h => exec_frame h .regs (by simp [mayChange]) j

theorem nextSatisfies_guardSpan_of_fits {P : State → Prop} {base n : Nat} {kind : Access}
    (hnext : n = 0 ∨ base + n ≤ 4096 → P t) (hfault : ∀ c, P (s.setRun (.faulted c))) :
    NextSatisfies P (guardSpan base n kind s t) := by
  obtain ⟨hfit, h⟩ | h := guardSpan_cases base n kind s t
  · exact h ▸ nextSatisfies_next (hnext hfit)
  · exact h ▸ nextSatisfies_raise (hfault _)

/-- The byte at `a` changes only inside the `n + 1` bytes at I, all of them in memory. -/
def ChangesInSpan (a n : Nat) (s t : State) : Prop :=
  t.byte a ≠ s.byte a → a ≤ 4095 ∧ s.index.toNat ≤ a ∧ a ≤ s.index.toNat + n

/-- A guarded store at I, whatever else the instruction changes. -/
theorem changesInSpan_guardedStore {a n : Nat} {bs : List Byte} (hcanon : s.Canonical) (hlen : bs.length = n + 1)
    (hbytes : t.byte a = (s.storeBytes s.base bs).byte a) :
    NextSatisfies (ChangesInSpan a n s) (guardSpan s.base (n + 1) .write s t) := by
  refine nextSatisfies_guardSpan_of_fits (fun hfit ha => ?_) fun c ha => absurd rfl ha
  have hbase : s.base = s.index.toNat := rfl
  have hin : s.base ≤ a ∧ a < s.base + bs.length := by
    by_contra hout
    exact ha (hbytes.trans (State.storeBytes_byte_outside hcanon (by omega) (by omega)))
  omega

/-- Settles O49: the two instructions that may change memory store in their span; no other changes a byte. -/
theorem storesStayInTheirSpan : Obligations.StoresStayInTheirSpan := by
  intro i s t a hcanon h ha
  cases i with
  | ldBVx x =>
    have hspan : NextSatisfies (ChangesInSpan a 2 s) (exec (.ldBVx x) s) :=
      changesInSpan_guardedStore hcanon (decimalDigits_length (s.reg x)) rfl
    obtain ⟨hmem, hin⟩ := hspan t h ha
    exact ⟨hmem, .inl ⟨x, rfl, hin⟩⟩
  | ldMemVx x =>
    have hspan : NextSatisfies (ChangesInSpan a x.val s) (exec (.ldMemVx x) s) :=
      changesInSpan_guardedStore hcanon (State.regBlock_length s x) rfl
    obtain ⟨hmem, hin⟩ := hspan t h ha
    exact ⟨hmem, .inr ⟨x, rfl, hin⟩⟩
  | _ => exact absurd (exec_frame h .mem (by simp [mayChange]) a) ha

theorem pcMoves_advance_of_same (h : t.pc = s.pc) : PcMoves 2 s t.advance := by
  have hmove := pcMoves_advance t
  rwa [PcMoves, h] at hmove

/-- Settles O50: every other instruction ends in the move of pc by 2, unless it takes a fault, and then Run is not
Running. -/
theorem otherInstructionsAdvanceByTwo : Obligations.OtherInstructionsAdvanceByTwo := by
  intro i s t _ h hdone hsteers
  revert t
  change NextSatisfies (fun t => t.run = .running → PcMoves 2 s t) (exec i s)
  have hfault (c : Cause) : (s.setRun (.faulted c)).run = .running → PcMoves 2 s (s.setRun (.faulted c)) :=
    fun h => nomatch h
  cases i with
  | jpNnn | jpV0Nnn | callNnn | ret | seVxNn | sneVxNn | seVxVy | sneVxVy | skpVx | sknpVx | ldVxK =>
    exact nomatch hsteers
  | drwVxVyN | ldBVx | ldMemVx | ldVxMem =>
    exact nextSatisfies_guardSpan (fun _ => pcMoves_advance_of_same (by simp)) hfault
  | _ => exact nextSatisfies_next fun _ => pcMoves_advance_of_same rfl

end Sys2Proof.Machine
end

section
/-! PROOFS. No instruction reads ST or RedrawFlag (R26, R28): two runs of each instruction, from states that differ in
them alone, by the operation the instruction ends in. -/

namespace Sys2Proof.Machine

variable {s t : State}

/-- The state with other values of ST and RedrawFlag. -/
def State.withSoundRedraw (s : State) (b : Byte) (r : Bool) : State := { s with st := b, redraw := r }

theorem frame_withSoundRedraw (t : State) (b : Byte) (r : Bool) : Frame [.st, .redraw] t (t.withSoundRedraw b r) := by
  intro p hp
  have hsame := agree_refl p t
  cases p with
  | st | redraw => simp at hp
  | _ => exact hsame

/-- Both outcomes are next states, equal but for ST and RedrawFlag. -/
def SameButSoundRedraw (o o' : Outcome) : Prop := ∃ t b r, o = .next t ∧ o' = .next (t.withSoundRedraw b r)

theorem sameBut_next (t : State) (b : Byte) (r : Bool) :
    SameButSoundRedraw (.next t) (.next (t.withSoundRedraw b r)) := ⟨t, b, r, rfl, rfl⟩

/-- The check of the span is of I, and a fault keeps ST and RedrawFlag; what completes may have set them. -/
theorem sameBut_guardSpan {base n : Nat} {kind : Access} {b b' : Byte} {r r' : Bool} : SameButSoundRedraw
    (guardSpan base n kind s t) (guardSpan base n kind (s.withSoundRedraw b r) (t.withSoundRedraw b' r')) := by
  unfold guardSpan
  split
  · exact sameBut_next t b' r'
  · exact sameBut_next (s.setRun _) b r

variable (s : State) (b : Byte) (r : Bool)

theorem sameBut_execRet : SameButSoundRedraw (execRet s) (execRet (s.withSoundRedraw b r)) := by
  by_cases hempty : s.sp.val = 0
  · exact ⟨_, b, r, settle_map_takesFault _ (State.pop_empty hempty),
      settle_map_takesFault _ (State.pop_empty (s := s.withSoundRedraw b r) hempty)⟩
  · exact ⟨_, b, r, settle_map_ok _ (State.pop_ok hempty),
      settle_map_ok _ (State.pop_ok (s := s.withSoundRedraw b r) hempty)⟩

theorem sameBut_execCallNnn (nnn : Imm12) :
    SameButSoundRedraw (execCallNnn nnn s) (execCallNnn nnn (s.withSoundRedraw b r)) := by
  by_cases hfree : s.sp.val < 16
  · exact ⟨_, b, r, settle_map_ok _ (State.push_ok hfree),
      settle_map_ok _ (State.push_ok (s := s.withSoundRedraw b r) hfree)⟩
  · exact ⟨_, b, r, settle_map_takesFault _ (State.push_full hfree),
      settle_map_takesFault _ (State.push_full (s := s.withSoundRedraw b r) hfree)⟩

theorem sameBut_skipOnKey (x : Reg) (pressed : Bool) :
    SameButSoundRedraw (skipOnKey x pressed s) (skipOnKey x pressed (s.withSoundRedraw b r)) := by
  by_cases hkey : (s.reg x).toNat < 16
  · exact ⟨_, b, r, skipOnKey_inside hkey, skipOnKey_inside (s := s.withSoundRedraw b r) hkey⟩
  · exact ⟨_, b, r, skipOnKey_outside hkey, skipOnKey_outside (s := s.withSoundRedraw b r) hkey⟩

theorem sameBut_execLdVxK (x : Reg) : SameButSoundRedraw (execLdVxK x s) (execLdVxK x (s.withSoundRedraw b r)) := by
  cases hpick : pickKey s.keys s.draws with
  | none => exact ⟨_, b, r, execLdVxK_none hpick, execLdVxK_none (s := s.withSoundRedraw b r) hpick⟩
  | some k => exact ⟨_, b, r, execLdVxK_some hpick, execLdVxK_some (s := s.withSoundRedraw b r) hpick⟩

/-- 00E0 and DXYN set RedrawFlag and FX18 sets ST, in both runs; every other instruction leaves them. -/
theorem exec_withSoundRedraw (i : Instr) : SameButSoundRedraw (exec i s) (exec i (s.withSoundRedraw b r)) := by
  cases i with
  | cls => exact sameBut_next _ b true
  | ldStVx x => exact sameBut_next _ (s.reg x) r
  | drwVxVyN => exact sameBut_guardSpan (r' := true)
  | ldBVx | ldMemVx | ldVxMem => exact sameBut_guardSpan
  | ret => exact sameBut_execRet s b r
  | callNnn nnn => exact sameBut_execCallNnn s b r nnn
  | skpVx x => exact sameBut_skipOnKey s b r x true
  | sknpVx x => exact sameBut_skipOnKey s b r x false
  | ldVxK x => exact sameBut_execLdVxK s b r x
  | _ => exact sameBut_next _ b r

/-- Settles O53: the two next states are equal but for ST and RedrawFlag. -/
theorem noInstructionReadsSoundOrRedraw : Obligations.NoInstructionReadsSoundOrRedraw := by
  intro i s b r
  obtain ⟨t, b', r', ht, hu⟩ := exec_withSoundRedraw s b r i
  exact ⟨t, _, ht, hu, frame_withSoundRedraw t b' r'⟩

end Sys2Proof.Machine
end

section
/-! PROOFS. The host's events (R6): a Faulted machine hears only Boot (R211), what each event answers a running one, and
the count of free values, which no event lowers. -/

namespace Sys2Proof.Machine

variable {s t : State} {e : Event} {P : State → Prop}

/-! ### A Faulted machine -/

theorem event_of_faulted_ne_boot {c : Cause} (hrun : s.run = .faulted c) (he : e ≠ .boot) : event e s = .next s := by
  rw [event_of_faulted e hrun]
  cases e with
  | boot => exact absurd rfl he
  | _ => rfl

theorem afterEvent_of_next (h : event e s = .next t) : afterEvent e s = t := by
  simp only [afterEvent, h]

theorem session_eq_self {es : List Event} (h : ∀ e ∈ es, event e s = .next s) : session es s = s := by
  induction es with
  | nil => rfl
  | cons e es ih =>
    rw [session, afterEvent_of_next (h e List.mem_cons_self)]
    exact ih fun e' he' => h e' (List.mem_cons_of_mem e he')

/-- Settles O6: each event answers the same state, and so the session leaves it. -/
theorem faultedIgnoresAllButBoot : Obligations.FaultedIgnoresAllButBoot := by
  intro es s c hrun hboot
  have hsame (e : Event) (he : e ∈ es) : event e s = .next s :=
    event_of_faulted_ne_boot hrun fun h => hboot (h ▸ he)
  exact ⟨hsame, session_eq_self hsame⟩

/-! ### Any machine -/

theorem loadRom_of_le {bytes : List Byte} (h : bytes.length ≤ 3232) :
    loadRom bytes s = .next (s.storeBytes 0x200 bytes) := if_neg (Nat.not_lt.2 h)

theorem loadRom_of_gt {bytes : List Byte} (h : 3232 < bytes.length) :
    loadRom bytes s = .fault (.romTooLarge bytes.length) := if_pos h

theorem nextSatisfies_loadRom {bytes : List Byte} (h : bytes.length ≤ 3232 → P (s.storeBytes 0x200 bytes)) :
    NextSatisfies P (loadRom bytes s) := by
  by_cases hlen : bytes.length ≤ 3232
  · exact loadRom_of_le hlen ▸ nextSatisfies_next (h hlen)
  · rw [loadRom_of_gt (Nat.lt_of_not_le hlen)]
    intro t ht
    cases ht

/-- What holds of the state before, and of what each event does to it, holds of every next state. -/
theorem nextSatisfies_event (hsame : P s) (hboot : P (boot s))
    (hload : ∀ bytes, bytes.length ≤ 3232 → P (s.storeBytes 0x200 bytes)) (hkeys : ∀ keys, P (setKeys keys s))
    (hstep : NextSatisfies P (step s)) (htick : P (timerTick s)) (hack : P (redrawAck s)) :
    NextSatisfies P (event e s) := by
  obtain h | ⟨-, h⟩ := event_cases e s
  · rw [h]
    cases e with
    | boot => exact nextSatisfies_next hboot
    | loadRom bytes => exact nextSatisfies_loadRom (hload bytes)
    | setKeys keys => exact nextSatisfies_next (hkeys keys)
    | step => exact hstep
    | timerTick => exact nextSatisfies_next htick
    | redrawAck => exact nextSatisfies_next hack
  · exact h ▸ nextSatisfies_next hsame

/-- What holds of the state before, of that state with any fault taken, and of what its instruction answers. -/
theorem nextSatisfies_step (hsame : P s) (hfault : ∀ c, P (s.setRun (.faulted c)))
    (hexec : ∀ i, nextInstr s = .ok i → NextSatisfies P (exec i s)) : NextSatisfies P (step s) := by
  intro t h
  obtain ⟨rfl, -⟩ | ⟨-, c, -, rfl⟩ | ⟨-, i, hi, hnext⟩ := step_cases h
  · exact hsame
  · exact hfault c
  · exact hexec i hi t hnext

theorem frame_setKeys (keys : Vector Bool 16) (s : State) : Frame [.keys] s (setKeys keys s) := by
  intro p hp
  have hsame := agree_refl p s
  cases p with
  | keys => simp at hp
  | _ => exact hsame

theorem frame_redrawAck (s : State) : Frame [.redraw] s (redrawAck s) := by
  intro p hp
  have hsame := agree_refl p s
  cases p with
  | redraw => simp at hp
  | _ => exact hsame

/-- Settles O45: each event is one update, of the keys or of RedrawFlag. -/
theorem setKeysAndRedrawAck : Obligations.SetKeysAndRedrawAck := fun s keys hrun =>
  ⟨⟨setKeys keys s, event_of_running _ hrun, fun _ => rfl, frame_setKeys keys s⟩,
    ⟨redrawAck s, event_of_running _ hrun, rfl, frame_redrawAck s⟩⟩

/-- Settles O46: a store at 0x200 that always fits, or a refusal after which the state stands. -/
theorem loadRomCopiesOrRefuses : Obligations.LoadRomCopiesOrRefuses := by
  intro s bytes hrun
  have hevent : event (.loadRom bytes) s = loadRom bytes s := event_of_running _ hrun
  refine ⟨fun hcanon hlen => ?copied, fun hlen => ?refused⟩
  case copied =>
    have hspan : 0x200 + bytes.length ≤ 4096 := by omega
    exact ⟨s.storeBytes 0x200 bytes, hevent.trans (loadRom_of_le hlen),
      fun k hk => State.storeBytes_byte_inside hcanon hspan hk,
      fun a ha => State.storeBytes_byte_outside hcanon hspan ha, frame_storeBytes _ _ (by decide)⟩
  case refused =>
    have hrefused := hevent.trans (loadRom_of_gt hlen)
    exact ⟨hrefused, by simp only [afterEvent, hrefused]⟩

/-! ### Free values -/

theorem exec_draws_le (i : Instr) (s : State) : NextSatisfies (fun t => s.draws ≤ t.draws) (exec i s) := by
  cases i with
  | rndVxNn => exact nextSatisfies_next (Nat.le_succ _)
  | ldVxK => exact nextSatisfies_execLdVxK le_rfl fun _ => Nat.le_succ _
  | _ => exact fun t h => (exec_frame h .draws (by simp [mayChange])).ge

theorem event_draws_le (e : Event) (s : State) : NextSatisfies (fun t => s.draws ≤ t.draws) (event e s) := by
  have hstep : NextSatisfies (fun t => s.draws ≤ t.draws) (step s) :=
    nextSatisfies_step le_rfl (fun _ => le_rfl) fun i _ => exec_draws_le i s
  exact nextSatisfies_event le_rfl le_rfl (fun _ _ => le_rfl) (fun _ => le_rfl) hstep le_rfl le_rfl

/-- Settles O28: CXNN draws at the count and raises it; only it and FX0A change the count at all, and both raise it. -/
theorem freeBytesAreDrawnOnce : Obligations.FreeBytesAreDrawnOnce :=
  ⟨fun s x nn => ⟨_, rfl, by simp, rfl⟩, event_draws_le⟩

end Sys2Proof.Machine
end

section
/-! PROOFS. Memory stays canonical (`20_memory.md` section 1; log 13): every store is checked before it is done. -/

namespace Sys2Proof.Machine

variable {s t : State}

theorem State.storeBytes_canonical {a : Nat} {bs : List Byte} (hcanon : s.Canonical) (hfit : a + bs.length ≤ 4096) :
    (s.storeBytes a bs).Canonical := Memory.wf_writeBytes hcanon hfit

theorem State.push_canonical (hcanon : s.Canonical) (h : s.push = .ok t) : t.Canonical := by
  by_cases hsp : s.sp.val < 16
  · rw [State.push_ok hsp] at h; cases h; exact hcanon
  · rw [State.push_full hsp] at h; cases h

theorem State.pop_canonical (hcanon : s.Canonical) (h : s.pop = .ok t) : t.Canonical := by
  by_cases hsp : s.sp.val = 0
  · rw [State.pop_empty hsp] at h; cases h
  · rw [State.pop_ok hsp] at h; cases h; exact hcanon

/-- FX33 and FX55 store inside memory; no other instruction touches the list of bytes. -/
theorem exec_canonical (i : Instr) (hcanon : s.Canonical) : NextSatisfies State.Canonical (exec i s) := by
  have hdraw (g : Framebuffer) (flag : Byte) : ((s.redrawWith g).setReg flagReg flag).advance.Canonical := hcanon
  have hload (v : Vector Byte 16) (w : Word) : ((s.setRegs v).setIndex w).advance.Canonical := hcanon
  cases i with
  | ldBVx x =>
    refine nextSatisfies_guardSpan_of_fits (fun hfit => ?_) fun _ => hcanon
    have hspan : s.base + (decimalDigits (s.reg x)).length ≤ 4096 := by rw [decimalDigits_length]; omega
    exact State.storeBytes_canonical hcanon hspan
  | ldMemVx x =>
    refine nextSatisfies_guardSpan_of_fits (fun hfit => ?_) fun _ => hcanon
    have hspan : s.base + (s.regBlock x).length ≤ 4096 := by
      rw [State.regBlock_length]
      exact hfit.resolve_left (Nat.succ_ne_zero _)
    exact State.storeBytes_canonical hcanon hspan
  | ret => exact nextSatisfies_settle_map (fun _ => State.pop_canonical hcanon) fun _ => hcanon
  | callNnn => exact nextSatisfies_settle_map (fun _ => State.push_canonical hcanon) fun _ => hcanon
  | drwVxVyN => exact nextSatisfies_guardSpan (hdraw _ _) fun _ => hcanon
  | ldVxMem => exact nextSatisfies_guardSpan (hload _ _) fun _ => hcanon
  | skpVx | sknpVx => exact nextSatisfies_skipOnKey (fun _ => hcanon) fun _ => hcanon
  | ldVxK => exact nextSatisfies_execLdVxK hcanon fun _ => hcanon
  | _ => exact nextSatisfies_next hcanon

theorem step_canonical (hcanon : s.Canonical) : NextSatisfies State.Canonical (step s) :=
  nextSatisfies_step hcanon (fun _ => hcanon) fun i _ => exec_canonical i hcanon

/-- Settles O54: a fault of the fetch or the decode leaves memory, and so does a Faulted machine. -/
theorem stepKeepsMemoryCanonical : Obligations.StepKeepsMemoryCanonical := fun _ t hcanon => step_canonical hcanon t

theorem State.resetWith_canonical (font : Fontset) : (State.resetWith font).Canonical := rfl

/-- LoadROM stores at most 3232 bytes from 0x200 on, so inside memory; Boot empties the list. -/
theorem event_canonical (e : Event) (hcanon : s.Canonical) : NextSatisfies State.Canonical (event e s) :=
  nextSatisfies_event hcanon (State.resetWith_canonical s.fontset)
    (fun _ hlen => State.storeBytes_canonical hcanon (by omega)) (fun _ => hcanon) (step_canonical hcanon) hcanon hcanon

end Sys2Proof.Machine
end

section
/-! PROOFS. The range of pc (R24): at most 0x10FE, because a Step executes only from 4094 down and the live stack entries
are addresses a Step has fetched from. -/

namespace Sys2Proof.Machine

variable {s t : State}

/-! ### Values of pc -/

theorem pc_le_of_nextInstr {i : Instr} (h : nextInstr s = .ok i) : s.pc.toNat ≤ 4094 := by
  by_contra hpc
  rw [nextInstr_of_fetch_error (fetch_outside (Nat.lt_of_not_le hpc))] at h
  cases h

theorem toNat_add_le_of_fetched {w : Word} {n : Nat} (hw : w.toNat ≤ 4094) (hn : n ≤ 4) :
    (w + BitVec.ofNat 16 n).toNat ≤ 0x10FE := by
  rw [BitVec.toNat_add, BitVec.toNat_ofNat]
  omega

theorem zextImm_le (nnn : Imm12) : (zextImm nnn).toNat ≤ 0x10FE := by
  have hnnn := nnn.isLt
  rw [zextImm_toNat]
  omega

/-- The bound itself: 0xFFF + 0xFF. -/
theorem State.offsetTarget_le (s : State) (nnn : Imm12) : (s.offsetTarget nnn).toNat ≤ 0x10FE := by
  have hnnn := nnn.isLt
  have hreg := (s.reg 0).isLt
  rw [State.offsetTarget_toNat]
  omega

/-! ### The invariant under the updates of pc and the stack -/

theorem State.PcInRange.setPc (h : s.PcInRange) {w : Word} (hw : w.toNat ≤ 0x10FE) : (s.setPc w).PcInRange :=
  ⟨hw, h.2⟩

theorem State.PcInRange.skipIf (h : s.PcInRange) (hpc : s.pc.toNat ≤ 4094) (c : Bool) : (s.skipIf c).PcInRange := by
  refine h.setPc ?_
  cases c with
  | false => exact toNat_add_le_of_fetched (n := 2) hpc (by decide)
  | true => exact toNat_add_le_of_fetched (n := 4) hpc (by decide)

theorem State.PcInRange.advance (h : s.PcInRange) (hpc : s.pc.toNat ≤ 4094) : s.advance.PcInRange := h.skipIf hpc false

/-- An instruction that changes neither pc nor the stack, and then moves pc by 2. -/
theorem State.PcInRange.advance_of_same (h : s.PcInRange) (hpc : s.pc.toNat ≤ 4094) (hsame : t.pc = s.pc)
    (hstack : t.stack = s.stack) (hsp : t.sp = s.sp) : t.advance.PcInRange := by
  have ht : t.PcInRange := by simpa only [PcInRange, hsame, hstack, hsp] using h
  exact ht.advance (hsame ▸ hpc)

/-- The entry popped is live, so an address fetched from, and the entries below it stay live. -/
theorem execRet_pcInRange (h : s.PcInRange) : NextSatisfies State.PcInRange (exec .ret s) := by
  obtain ⟨-, hfault⟩ | ⟨k, t, hnext, hlive, hsp, hpc, hframe⟩ := execRet_cases s
  · exact hfault ▸ nextSatisfies_raise h
  · have hentry : t.pc.toNat ≤ 4094 := hpc ▸ h.2 k (by omega)
    have hlower (j : Fin 16) (hj : j.val < t.sp.val) : (t.stack[j]).toNat ≤ 4094 :=
      hframe .stack (by decide) j ▸ h.2 j (by omega)
    have ht : t.PcInRange := ⟨hentry.trans (by decide), hlower⟩
    exact hnext ▸ nextSatisfies_next (ht.advance hentry)

/-- The entry pushed is the pc of this Step, which it has fetched from. -/
theorem execCallNnn_pcInRange (nnn : Imm12) (h : s.PcInRange) (hpc : s.pc.toNat ≤ 4094) :
    NextSatisfies State.PcInRange (exec (.callNnn nnn) s) := by
  obtain ⟨-, hfault⟩ | ⟨t, hnext, hsp, hstack, -⟩ := execCallNnn_cases nnn s
  · exact hfault ▸ nextSatisfies_raise h
  · have hentry (j : Fin 16) (hj : j.val < t.sp.val) : (t.stack[j]).toNat ≤ 4094 := by
      rw [hstack j]
      split
      · exact hpc
      · exact h.2 j (by omega)
    exact hnext ▸ nextSatisfies_next ⟨zextImm_le nnn, hentry⟩

/-! ### Instructions, Steps and events -/

theorem exec_pcInRange (i : Instr) (h : s.PcInRange) (hpc : s.pc.toNat ≤ 4094) :
    NextSatisfies State.PcInRange (exec i s) := by
  have hfault (c : Cause) : (s.setRun (.faulted c)).PcInRange := h
  cases i with
  | ret => exact execRet_pcInRange h
  | callNnn nnn => exact execCallNnn_pcInRange nnn h hpc
  | jpNnn nnn => exact nextSatisfies_next (h.setPc (zextImm_le nnn))
  | jpV0Nnn nnn => exact nextSatisfies_next (h.setPc (s.offsetTarget_le nnn))
  | seVxNn | sneVxNn | seVxVy | sneVxVy => exact nextSatisfies_next (h.skipIf hpc _)
  | skpVx | sknpVx => exact nextSatisfies_skipOnKey (h.skipIf hpc) hfault
  | ldVxK => exact nextSatisfies_execLdVxK h fun _ => h.advance hpc
  | drwVxVyN | ldBVx | ldMemVx | ldVxMem =>
    exact nextSatisfies_guardSpan (h.advance_of_same hpc (by simp) (by simp) (by simp)) hfault
  | _ => exact nextSatisfies_next (h.advance_of_same hpc rfl rfl rfl)

theorem step_pcInRange (h : s.PcInRange) : NextSatisfies State.PcInRange (step s) :=
  nextSatisfies_step h (fun _ => h) fun i hi => exec_pcInRange i h (pc_le_of_nextInstr hi)

/-- Settles O55: an instruction is executed only when its word was fetched, so from a pc up to 4094. -/
theorem stepKeepsPcInRange : Obligations.StepKeepsPcInRange := fun _ t h => step_pcInRange h t

theorem State.resetWith_pcInRange (font : Fontset) : (State.resetWith font).PcInRange :=
  ⟨Nat.le_of_ble_eq_true rfl, fun _ hk => absurd hk (Nat.not_lt_zero _)⟩

theorem event_pcInRange (e : Event) (h : s.PcInRange) : NextSatisfies State.PcInRange (event e s) :=
  nextSatisfies_event h (State.resetWith_pcInRange s.fontset) (fun _ _ => h) (fun _ => h) (step_pcInRange h) h h

/-! ### Both invariants -/

/-- Settles O56: every event keeps each of the two invariants, so every session does. -/
theorem sessionsKeepInvariants : Obligations.SessionsKeepInvariants :=
  fun es _ hcanon hpc => ⟨session_keeps (fun e _ => event_canonical e) es hcanon,
    session_keeps (fun e _ => event_pcInRange e) es hpc⟩

/-- Settles O57: at reset memory lists nothing, pc is 0x200 and no stack entry is live, whatever the FONTSET. -/
theorem resetMeetsInvariants : Obligations.ResetMeetsInvariants :=
  ⟨fun font => ⟨State.resetWith_canonical font, State.resetWith_pcInRange font⟩,
    State.resetWith_canonical defaultFontset, State.resetWith_pcInRange defaultFontset⟩

end Sys2Proof.Machine
end

section
/-! PROOFS. BNNN (R123), and a call followed by a return (`95_test_vectors.md` S8). -/

namespace Sys2Proof.Machine

variable {s t : State} {l : List Part}

/-- A part that is as before need not be listed. -/
theorem Frame.drop {p : Part} (h : Frame (p :: l) s t) (hp : Agree p s t) : Frame l s t := by
  intro q hq
  by_cases heq : q = p
  · exact heq ▸ hp
  · exact h q (by simp [heq, hq])

/-- Settles O15: the one update is pc, and the sum of 12 and 8 bits does not wrap in 16. -/
theorem offsetJumpAddsV0 : Obligations.OffsetJumpAddsV0 :=
  fun s nnn => ⟨s.setPc (s.offsetTarget nnn), rfl, s.offsetTarget_toNat nnn, frame_setPc _ (by decide)⟩

/-- Settles O18: the return pops the entry that the call has written, the call's own address. -/
theorem callThenReturnResumes : Obligations.CallThenReturnResumes := by
  intro s nnn hfree
  obtain ⟨t, hcall, -, hsp, hstack, hframe⟩ := (callPushesItsAddress s nnn).1 hfree
  obtain ⟨u, hret, hsp', hpc, hframe'⟩ := (returnPopsAndAddsTwo t).1 ⟨s.sp.val, hfree⟩ hsp
  have hentry : t.stack[(⟨s.sp.val, hfree⟩ : Fin 16)] = s.pc := (hstack _).trans (if_pos rfl)
  have hsame : u.sp = s.sp := Fin.ext hsp'
  have hboth : Frame [.sp, .pc, .stack] s u := (hframe.mono (by decide)).trans (hframe'.mono (by decide))
  exact ⟨t, u, hcall, hret, hpc.trans (by rw [hentry]), hsame, hboth.drop hsame⟩

end Sys2Proof.Machine
end

section
/-! PROOFS. The flag writers of the ALU (R146 to R150, R153), each from one rule for flag-then-result and the value of its
flag; and CXNN (R151). -/

namespace Sys2Proof.Machine

variable {s : State} {x : Reg} {o : Outcome}

/-! ### Flag first, then the result -/

theorem setsRegAndFlag_flagThen (flag : Byte) (x : Reg) (f : State → Byte) (s : State) :
    SetsRegAndFlag x (f (s.setReg flagReg flag)) flag s (s.flagThen flag x f) := by
  refine ⟨?result, fun hx => ?flag, fun j hx hflag => ?others⟩
  case result => rw [State.flagThen_reg, if_pos rfl]
  case flag => rw [State.flagThen_reg, if_neg hx, if_pos rfl]
  case others => rw [State.flagThen_reg, if_neg hx.symm, if_neg hflag.symm]

/-- What the result reads (R153). -/
theorem setReg_flagReg_reg (s : State) (flag : Byte) (j : Reg) :
    (s.setReg flagReg flag).reg j = regAfterFlag s flag j := by
  rw [State.setReg_reg, regAfterFlag]
  exact if_congr eq_comm rfl rfl

theorem flagThen_advance_spec {flag : Byte} {f : State → Byte} (ho : o = .next (s.flagThen flag x f).advance) :
    ∃ t, o = .next t ∧ SetsRegAndFlag x (f (s.setReg flagReg flag)) flag s t ∧ PcMoves 2 s t ∧
      Frame [.regs, .pc] s t :=
  ⟨(s.flagThen flag x f).advance, ho, setsRegAndFlag_flagThen flag x f s, pcMoves_advance (s.flagThen flag x f),
    frame_flagThen_advance flag x f s⟩

/-! ### The values of the flags -/

theorem flagByte_eq_ite {c : Bool} {p : Prop} [Decidable p] (h : c = true ↔ p) : flagByte c = if p then 1 else 0 :=
  if_congr h rfl rfl

theorem carryFlag_eq (a b : Byte) : carryFlag a b = if a.toNat + b.toNat > 255 then 1 else 0 :=
  flagByte_eq_ite decide_eq_true_iff

theorem notBorrowFlag_eq (a b : Byte) : notBorrowFlag a b = if a.toNat < b.toNat then 0 else 1 := by
  have hnot : (!decide (a.toNat < b.toNat)) = true ↔ ¬ a.toNat < b.toNat := by simp
  rw [notBorrowFlag, flagByte_eq_ite hnot, ite_not]

theorem indexOverflowFlag_eq (w : Word) (b : Byte) :
    indexOverflowFlag w b = if w.toNat + b.toNat > 0xFFF then 1 else 0 :=
  flagByte_eq_ite decide_eq_true_iff

/-- A bit of a byte as a flag is the number that the bit is. -/
theorem flagByte_getLsbD (a : Byte) (k : Nat) : flagByte (a.getLsbD k) = BitVec.ofNat 8 (a.toNat / 2 ^ k % 2) := by
  have hbit : a.getLsbD k = decide (a.toNat / 2 ^ k % 2 = 1) := Nat.testBit_eq_decide_div_mod_eq
  rw [hbit]
  obtain h | h := Nat.mod_two_eq_zero_or_one (a.toNat / 2 ^ k)
  · rw [h]; rfl
  · rw [h]; rfl

theorem lowBitFlag_eq (a : Byte) : lowBitFlag a = BitVec.ofNat 8 (a.toNat % 2) := by
  rw [lowBitFlag, flagByte_getLsbD, pow_zero, Nat.div_one]

theorem highBitFlag_eq (a : Byte) : highBitFlag a = BitVec.ofNat 8 (a.toNat / 128) := by
  have ha := a.isLt
  have hbit : a.toNat / 2 ^ 7 % 2 = a.toNat / 128 := by omega
  rw [highBitFlag, flagByte_getLsbD, hbit]

/-! ### The values of the results -/

theorem byte_sub_toNat (a b : Byte) : (a - b).toNat = (a.toNat + 256 - b.toNat) % 256 := by
  bv_omega

theorem byte_shiftRight_one_toNat (a : Byte) : (a >>> 1).toNat = a.toNat / 2 := by
  rw [BitVec.toNat_ushiftRight, Nat.shiftRight_eq_div_pow, pow_one]

theorem byte_shiftLeft_one_toNat (a : Byte) : (a <<< 1).toNat = a.toNat * 2 % 256 := by
  rw [BitVec.toNat_shiftLeft, Nat.shiftLeft_eq, pow_one]

/-! ### The statements -/

/-- Settles O23: flag-then-result, the result formed before the flag write. -/
theorem addWritesCarryThenSum : Obligations.AddWritesCarryThenSum := by
  intro s x y
  obtain ⟨t, hnext, hregs, hpc, hframe⟩ := flagThen_advance_spec (o := exec (.addVxVy x y) s) rfl
  rw [carryFlag_eq] at hregs
  exact ⟨t, _, hnext, BitVec.toNat_add _ _, hregs, hpc, hframe⟩

/-- Settles O24: flag-then-result, both operands read after the flag write. -/
theorem subWritesFlagThenDifference : Obligations.SubWritesFlagThenDifference := by
  intro s x y f hf
  obtain ⟨t, hnext, hregs, hpc, hframe⟩ := flagThen_advance_spec (o := exec (.subVxVy x y) s) rfl
  rw [notBorrowFlag_eq, ← hf, setReg_flagReg_reg, setReg_flagReg_reg] at hregs
  exact ⟨t, _, hnext, byte_sub_toNat _ _, hregs, hpc, hframe⟩

/-- Settles O25: as O24 with the operands exchanged. -/
theorem subnWritesFlagThenDifference : Obligations.SubnWritesFlagThenDifference := by
  intro s x y f hf
  obtain ⟨t, hnext, hregs, hpc, hframe⟩ := flagThen_advance_spec (o := exec (.subnVxVy x y) s) rfl
  rw [notBorrowFlag_eq, ← hf, setReg_flagReg_reg, setReg_flagReg_reg] at hregs
  exact ⟨t, _, hnext, byte_sub_toNat _ _, hregs, hpc, hframe⟩

/-- Settles O26: flag-then-result; a shift by one halves or doubles, and the flag is the bit it loses. -/
theorem shiftsMoveOneBit : Obligations.ShiftsMoveOneBit := by
  intro s x y
  constructor
  · obtain ⟨t, hnext, hregs, hpc, hframe⟩ := flagThen_advance_spec (o := exec (.shrVx x y) s) rfl
    rw [setReg_flagReg_reg] at hregs
    exact ⟨t, _, _, hnext, lowBitFlag_eq _, byte_shiftRight_one_toNat _, hregs, hpc, hframe⟩
  · obtain ⟨t, hnext, hregs, hpc, hframe⟩ := flagThen_advance_spec (o := exec (.shlVx x y) s) rfl
    rw [setReg_flagReg_reg] at hregs
    exact ⟨t, _, _, hnext, highBitFlag_eq _, byte_shiftLeft_one_toNat _, hregs, hpc, hframe⟩

/-- An instruction that is one register write, one draw, and the move of pc by 2. -/
theorem setReg_drawn_advance_spec {b : Byte} (ho : o = .next (s.setReg x b).drawn.advance) :
    ∃ t, o = .next t ∧ SetsReg x b s t ∧ PcMoves 2 s t ∧ Frame [.regs, .pc, .draws] s t :=
  ⟨(s.setReg x b).drawn.advance, ho, setsReg_setReg x b s, pcMoves_advance (s.setReg x b).drawn,
    frame_setReg_drawn_advance x b s⟩

/-- Settles O27: the byte is the free one at the count of draws. -/
theorem randomByteIsMasked : Obligations.RandomByteIsMasked := by
  intro s x nn
  obtain ⟨t, hnext, hreg, hpc, hframe⟩ := setReg_drawn_advance_spec (o := exec (.rndVxNn x nn) s) rfl
  exact ⟨t, _, hnext, hreg, hpc, hframe⟩

end Sys2Proof.Machine
end

section
/-! PROOFS. I as a sum or a product (R161, R162), and what is read back after FX55, by FX65 (`95_test_vectors.md` S6) and by
the next fetch (R69). -/

namespace Sys2Proof.Machine

/-- Settles O30: the one update beside pc is I. -/
theorem glyphAddressIsFiveTimes : Obligations.GlyphAddressIsFiveTimes :=
  fun s x => ⟨(s.setIndex (s.glyphAddress x)).advance, rfl, s.glyphAddress_toNat x, pcMoves_advance (s.setIndex _),
    frame_setIndex_advance _ s⟩

/-- Settles O31: the flag is of the unwrapped sum; the sum that is kept reads V[X] after the flag write. -/
theorem addIndexFlagsAndWraps : Obligations.AddIndexFlagsAndWraps := by
  intro s x f hf
  have hflag : indexOverflowFlag s.index (s.reg x) = f := (indexOverflowFlag_eq _ _).trans hf.symm
  subst hflag
  refine ⟨_, rfl, ?sum, setsReg_setReg flagReg _ s, pcMoves_advance ((s.setReg _ _).setIndex _),
    frame_flagIndex _ _ s⟩
  case sum =>
    rw [State.advance_index, State.setIndex_index, BitVec.toNat_add, State.zextReg_toNat, setReg_flagReg_reg]
    rfl

/-- Settles O35: each byte that FX65 loads is one that FX55 stored, and both advance the same I. -/
theorem storeThenLoadReturnsRegisters : Obligations.StoreThenLoadReturnsRegisters := by
  intro s t u x hcanon hfit hstore hbytes hindex
  obtain ⟨t', hstore', hblock, -, hindex', -⟩ := (blockStored s x).1 hcanon hfit
  obtain rfl : t' = t := Host.Outcome.next.inj (hstore'.symm.trans hstore)
  obtain ⟨w, hload, hregs, hindexw, -⟩ := (blockLoaded u x).1 (by rwa [hindex])
  refine ⟨w, hload, fun j hj => ?reloaded, BitVec.eq_of_toNat_eq ?index⟩
  case reloaded => rw [hregs, if_pos hj, hbytes, hindex, hblock j hj]
  case index => rw [hindexw, hindex', hindex]

/-- Settles O36: both bytes of the word lie in the stored block, so pc is in range too. -/
theorem fetchSeesStoredBlock : Obligations.FetchSeesStoredBlock := by
  intro s t x j k hcanon hfit hstore hk hkx hpc
  obtain ⟨t', hstore', hblock, -⟩ := (blockStored s x).1 hcanon hfit
  obtain rfl : t' = t := Host.Outcome.next.inj (hstore'.symm.trans hstore)
  have hlow : t'.pc.toNat + 1 = s.index.toNat + k.val := by omega
  rw [fetch_ok (by omega), hlow, hpc, hblock j (by omega), hblock k hkx]

end Sys2Proof.Machine
end

section
/-! PROOFS. DXYN pixel by pixel (R171 to R173), drawing twice (`95_test_vectors.md` S7), and the host's snapshot (R27). -/

namespace Sys2Proof.Machine

variable {s : State}

/-! ### The sprite -/

/-- The bits of a sprite row that fall on the screen are the sprite's pixels there. -/
theorem spriteRow_eq_spritePixel (s : State) (n : Fin 16) (x0 y0 cy : Nat) {cx : Nat} (hcx : cx < 64) :
    (spriteRow (s.sprite n) x0 y0 cy).getLsbD cx = spritePixel s n.val x0 y0 cx cy := by
  rw [spriteRow_getLsbD, spritePixel]
  by_cases hrow : y0 ≤ cy ∧ cy < y0 + n.val
  · have hbyte : (s.sprite n).getD (cy - y0) 0 = s.byte (s.index.toNat + (cy - y0)) :=
      Memory.getD_readBytes (by omega) 0
    rw [hbyte]
    simp [hcx, hrow]
  · have hbit : (decide (y0 ≤ cy) && ((s.sprite n).getD (cy - y0) 0).getLsbD (7 - (cx - x0))) = false := by
      by_cases htop : y0 ≤ cy
      · have hlen : (s.sprite n).length ≤ cy - y0 := by rw [State.sprite, Memory.length_readBytes]; omega
        rw [List.getD_eq_default _ _ hlen, show (0 : Byte).getLsbD _ = false from BitVec.getLsbD_zero, Bool.and_false]
      · rw [decide_eq_false htop, Bool.false_and]
    have hout : ¬ (x0 ≤ cx ∧ cx < x0 + 8 ∧ y0 ≤ cy ∧ cy < y0 + n.val) := fun h => hrow h.2.2
    rw [hbit, Bool.and_false, Bool.and_false, decide_eq_false hout, Bool.false_and]

/-- A collision is a pixel of the screen that is set and that the sprite toggles. -/
theorem collides_sprite_iff (s : State) (n : Fin 16) (x0 y0 : Nat) : collides s.fb (s.sprite n) x0 y0 = true ↔
    ∃ cx cy, cx < 64 ∧ cy < 32 ∧ s.pixel cx cy = true ∧ spritePixel s n.val x0 y0 cx cy = true := by
  rw [collides_iff]
  constructor
  · rintro ⟨cy, cx, hset, htoggled⟩
    have hcx : cx < 64 := BitVec.lt_of_getLsbD hset
    exact ⟨cx, cy.val, hcx, cy.isLt, (s.pixel_row cx cy).trans hset,
      (spriteRow_eq_spritePixel s n x0 y0 cy.val hcx).symm.trans htoggled⟩
  · rintro ⟨cx, cy, hcx, hcy, hset, htoggled⟩
    exact ⟨⟨cy, hcy⟩, cx, (s.pixel_row cx ⟨cy, hcy⟩).symm.trans hset,
      (spriteRow_eq_spritePixel s n x0 y0 cy hcx).trans htoggled⟩

theorem flagByte_eq_one_iff (c : Bool) : flagByte c = 1 ↔ c = true := by cases c <;> decide

theorem flagByte_zero_or_one (c : Bool) : flagByte c = 0 ∨ flagByte c = 1 := by cases c <;> decide

theorem blit_blit (fb : Framebuffer) (sprite : List Byte) (x0 y0 : Nat) :
    blit (blit fb sprite x0 y0) sprite x0 y0 = fb := by
  refine Vector.ext fun y hy => ?_
  rw [blit_getElem, blit_getElem, BitVec.xor_assoc, BitVec.xor_self, BitVec.xor_zero]

/-! ### The state after a draw -/

/-- The state that DXYN answers when its sprite fits (R171). -/
def State.afterDraw (s : State) (x y : Reg) (n : Fin 16) : State :=
  ((s.redrawWith (blit s.fb (s.sprite n) (s.reg x).toNat (s.reg y).toNat)).setReg flagReg
    (flagByte (collides s.fb (s.sprite n) (s.reg x).toNat (s.reg y).toNat))).advance

theorem exec_drwVxVyN_fits (x y : Reg) {n : Fin 16} (hfit : n.val = 0 ∨ s.index.toNat + n.val ≤ 4096) :
    exec (.drwVxVyN x y n) s = .next (s.afterDraw x y n) := guardSpan_fits hfit

section
variable (s : State) (x y : Reg) (n : Fin 16)

@[simp] theorem State.afterDraw_fb :
    (s.afterDraw x y n).fb = blit s.fb (s.sprite n) (s.reg x).toNat (s.reg y).toNat := by
  simp [State.afterDraw]

@[simp] theorem State.afterDraw_redraw : (s.afterDraw x y n).redraw = true := by
  simp [State.afterDraw]

@[simp] theorem State.afterDraw_index : (s.afterDraw x y n).index = s.index := by
  simp [State.afterDraw]

@[simp] theorem State.afterDraw_byte (a : Nat) : (s.afterDraw x y n).byte a = s.byte a := by
  simp [State.afterDraw]

@[simp] theorem State.afterDraw_sprite (m : Fin 16) : (s.afterDraw x y n).sprite m = s.sprite m := by
  simp [State.afterDraw, State.sprite, State.base]

@[simp] theorem State.afterDraw_spritePixel (m x0 y0 cx cy : Nat) :
    spritePixel (s.afterDraw x y n) m x0 y0 cx cy = spritePixel s m x0 y0 cx cy := by
  simp [spritePixel]

theorem State.afterDraw_pixel {cx cy : Nat} (hcx : cx < 64) (hcy : cy < 32) : (s.afterDraw x y n).pixel cx cy =
    (s.pixel cx cy != spritePixel s n.val (s.reg x).toNat (s.reg y).toNat cx cy) := by
  rw [State.afterDraw, State.advance_pixel, State.setReg_pixel, State.pixel_redrawWith, dif_pos hcy, blit_getElem,
    BitVec.getLsbD_xor, spriteRow_eq_spritePixel s n _ _ _ hcx, State.pixel_row s cx ⟨cy, hcy⟩]
  rfl

theorem State.afterDraw_setsReg : SetsReg flagReg
    (flagByte (collides s.fb (s.sprite n) (s.reg x).toNat (s.reg y).toNat)) s (s.afterDraw x y n) := by
  refine ⟨?flag, fun j hj => ?others⟩
  case flag => rw [State.afterDraw, State.advance_reg, State.setReg_reg, if_pos rfl]
  case others => rw [State.afterDraw, State.advance_reg, State.setReg_reg, if_neg hj.symm, State.redrawWith_reg]

theorem State.afterDraw_pcMoves : PcMoves 2 s (s.afterDraw x y n) := pcMoves_advance_of_same (by simp)

theorem State.afterDraw_frame : Frame [.regs, .fb, .redraw, .pc] s (s.afterDraw x y n) := frame_draw _ _ s

end

/-! ### The statements -/

/-- Settles O38: the check of the N bytes, and on its good side the state after the draw, read pixel by pixel. -/
theorem spriteIsXoredOntoScreen : Obligations.SpriteIsXoredOntoScreen := by
  intro s x y n
  refine ⟨fun hfit => ?drawn, fun hn hout => (guardSpan_outside hn hout).trans (raise_eq _ s)⟩
  case drawn =>
    have hflag := (flagByte_eq_one_iff _).trans (collides_sprite_iff s n (s.reg x).toNat (s.reg y).toNat)
    exact ⟨s.afterDraw x y n, exec_drwVxVyN_fits x y hfit, fun _ _ hcx hcy => s.afterDraw_pixel x y n hcx hcy,
      ⟨_, s.afterDraw_setsReg x y n, flagByte_zero_or_one _, hflag⟩, s.afterDraw_redraw x y n,
      s.afterDraw_pcMoves x y n, s.afterDraw_frame x y n⟩

/-- Settles O39: the second draw has the same origin and sprite as the first, and exclusive OR undoes itself. -/
theorem drawTwiceRestores : Obligations.DrawTwiceRestores := by
  intro s x y n hx hy hfit
  obtain ⟨-, hothers⟩ := s.afterDraw_setsReg x y n
  have hregx : (s.afterDraw x y n).reg x = s.reg x := hothers x hx
  have hregy : (s.afterDraw x y n).reg y = s.reg y := hothers y hy
  have hfit' : n.val = 0 ∨ (s.afterDraw x y n).index.toNat + n.val ≤ 4096 := by rwa [State.afterDraw_index]
  refine ⟨s.afterDraw x y n, (s.afterDraw x y n).afterDraw x y n, exec_drwVxVyN_fits x y hfit,
    exec_drwVxVyN_fits x y hfit', ?restored, ?collision⟩
  case restored =>
    rw [State.afterDraw_fb, hregx, hregy, State.afterDraw_sprite, State.afterDraw_fb, blit_blit]
  case collision =>
    obtain ⟨hflag, -⟩ := (s.afterDraw x y n).afterDraw_setsReg x y n
    rw [hflag, hregx, hregy, flagByte_eq_one_iff, collides_sprite_iff]
    simp only [State.afterDraw_spritePixel]

/-- Settles O40: an index of the snapshot has its column as remainder and its row as quotient. -/
theorem snapshotOrder : Obligations.SnapshotOrder := by
  intro s
  refine ⟨by rw [State.snapshot, List.length_map, List.length_range], fun x y hx hy => ?_⟩
  have hcell : x + 64 * y < 64 * 32 := by omega
  have hcolumn : (x + 64 * y) % 64 = x := by omega
  have hrow : (x + 64 * y) / 64 = y := by omega
  rw [State.snapshot, List.getElem?_map, List.getElem?_range hcell, Option.map_some, hcolumn, hrow]

end Sys2Proof.Machine
end

section
/-! PROOFS. The keypad (R180 to R182): the two skips on a key, and FX0A with and without a pressed key. -/

namespace Sys2Proof.Machine

/-- Settles O41: in range a skip on the state of the key, above 15 the fault. -/
theorem keySkips : Obligations.KeySkips := by
  intro s x
  refine ⟨fun k hk => ?inside, fun hout => ?outside⟩
  case inside =>
    have hkey : (s.reg x).toNat < 16 := hk ▸ k.isLt
    have hskip {pressed : Bool} : (s.keys[(s.reg x).toNat] == pressed) = true ↔ s.keys[k] = pressed := by
      simp [hk]
    exact ⟨skip_spec (skipOnKey_inside hkey) hskip, skip_spec (skipOnKey_inside hkey) hskip⟩
  case outside =>
    have hkey : ¬ (s.reg x).toNat < 16 := Nat.not_lt.2 hout
    exact ⟨(skipOnKey_outside hkey).trans (raise_eq _ s), (skipOnKey_outside hkey).trans (raise_eq _ s)⟩

/-- Settles O42: no key is picked exactly when none is pressed, and a key that is picked is pressed. -/
theorem waitForKey : Obligations.WaitForKey := by
  intro s x
  refine ⟨fun hnone => execLdVxK_none (pickKey_none.2 hnone), fun ⟨k, hk⟩ => ?pressed⟩
  case pressed =>
    cases hpick : pickKey s.keys s.draws with
    | none =>
      rw [pickKey_none.1 hpick k] at hk
      cases hk
    | some j =>
      obtain ⟨t, hnext, hreg, hpc, hframe⟩ := setReg_drawn_advance_spec (execLdVxK_some (x := x) hpick)
      exact ⟨t, hnext, ⟨j, pickKey_pressed hpick, hreg⟩, hpc, hframe⟩

end Sys2Proof.Machine
end
